-- ==== Sys2Proof/Word.lean ====
section
/-! DEFINITION. The word types and the fixed-size row of like things (bays, channels, ports, lines, slots). -/

namespace Sys2Proof

/-- A byte of frame memory. -/
abbrev Byte := BitVec 8

/-- A 32-bit register or counter. -/
abbrev Word := BitVec 32

/-- `n` like things in a row: the bays, the channels, the ports, the trigger lines, the slots. -/
structure Arr (n : Nat) (α : Type) where
  toList : List α
  size_eq : toList.length = n
deriving DecidableEq, Repr

namespace Arr

variable {n : Nat} {α β : Type}

/-- The `i`-th thing. -/
def get (v : Arr n α) (i : Fin n) : α :=
  v.toList.get (i.cast v.size_eq.symm)

/-- The row with the `i`-th thing replaced. -/
def set (v : Arr n α) (i : Fin n) (a : α) : Arr n α :=
  ⟨v.toList.set i.val a, by rw [List.length_set]; exact v.size_eq⟩

/-- The row with the `i`-th thing changed by `f`. -/
def modify (v : Arr n α) (i : Fin n) (f : α → α) : Arr n α :=
  v.set i (f (v.get i))

/-- The row of the values of `f`. -/
def build (f : Fin n → α) : Arr n α :=
  ⟨List.ofFn f, List.length_ofFn⟩

/-- The row with every thing changed by `f`. -/
def map (f : α → β) (v : Arr n α) : Arr n β :=
  ⟨v.toList.map f, by rw [List.length_map]; exact v.size_eq⟩

/-- The row that holds the same thing `n` times. -/
def replicate (n : Nat) (a : α) : Arr n α :=
  ⟨List.replicate n a, List.length_replicate⟩

end Arr

/-- All indices of a row, lowest first. -/
def allOf (n : Nat) : List (Fin n) := List.ofFn id

/-- The lowest index that satisfies `p`, if one does. -/
def lowest (n : Nat) (p : Fin n → Bool) : Option (Fin n) := (allOf n).find? p

end Sys2Proof
end

