-- ==== Sys2Proof/Syntax.lean ====
section
/-! DEFINITION. The commands: one constructor per row of the table, with its operands. -/

namespace Sys2Proof

/-- Three components in the order R, G, B (00_scope.md, Fixed-point quantities). -/
structure RGB (α : Type) where
  r : α
  g : α
  b : α
deriving DecidableEq, Repr

/-- A source pixel: three 10-bit codes (R115). -/
abbrev Pixel := RGB (BitVec 10)

/-- The aspect class of a format announcement (R115). -/
inductive AspectClass where
  | wide
  | normal
deriving DecidableEq, Repr

/-- A format announcement of the source link (R115). -/
structure Format where
  width : Nat
  height : Nat
  aspect : AspectClass
deriving DecidableEq, Repr

/-- A register write: which of the four bytes are written, and the value (R185). -/
structure RegWrite where
  enables : BitVec 4
  value : Word
deriving DecidableEq, Repr

/-- The registers whose writes are ignored (R185). -/
inductive ReadOnlyRegister where
  | ident
  | runStatus
deriving DecidableEq, Repr

/-- The error of an 8-byte word of frame memory, as its check bits show it (R171, R172). -/
inductive EccError where
  | single
  | uncorrectable
deriving DecidableEq, Repr

/-- What frame memory is found to hold after power-on, where the spec leaves it undefined
(R175, R184): bytes by address, and word errors by word number. -/
structure FoundMemory where
  cells : List (Nat × Byte)
  errors : List (Nat × EccError)
deriving DecidableEq, Repr

/-- The orders that the spec leaves open among what comes together with an output frame start: whether the fault
acknowledgement comes before the blocks' responses (R192), and the lines whose passed edges the Bay Controller takes
before its response to the start, in the order it takes them (R110). -/
structure StartOrder where
  ackFirst : Bool
  early : List (Fin 4)
deriving DecidableEq, Repr

/-- How a training attempt ended (R152): the number of the attempt, by which a late report is known (R151, log 38), and
whether it succeeded. -/
structure TrainingResult where
  attempt : Nat
  success : Bool
deriving DecidableEq, Repr

/-- The commands of the block, one per row of spec/opcode_table.json, in the table's order. -/
inductive Instr where
  | start
  | stop
  | reset
  | areaBaseWrite (w : RegWrite)
  | noticeClear (w : RegWrite)
  | noticeEnableWrite (w : RegWrite)
  | registerWriteIgnored (r : ReadOnlyRegister) (w : RegWrite)
  | powerOnReset (found : FoundMemory)
  | pciExpressLinkReset
  | hostWrite (address : Nat) (data : List Byte)
  | hostRead (address length : Nat)
  | presenceChange (format : Option Format)
  | formatAnnouncement (format : Format)
  | inputFrameStart (time : Nat) (order : StartOrder)
  | line (pixels : List Pixel)
  | fillDone
  | outputFrameStart (order : StartOrder)
  | missingStartDeadline (order : StartOrder)
  | validationDone (time : Nat) (pins : BitVec 4)
  | checkDone
  | loadDone
  | passedEdge
  | filteredLevelChange (line : Fin 4)
  | holdOffExpiry (line : Fin 4)
  | presenceRise (port : Fin 6)
  | presenceFall (port : Fin 6)
  | lossOfLock (port : Fin 6)
  | trainingDone (port : Fin 6) (result : TrainingResult)
  | attemptTimerExpiry (port : Fin 6)
  | retryTimerExpiry (port : Fin 6)
  | burstGrant (size : Nat)
  | renderPixel (channel : Fin 6)
  | pixelDue (port : Fin 6)
  | sampleTick (pins : BitVec 4) (presence : BitVec 6)
deriving DecidableEq, Repr

end Sys2Proof
end

