-- ==== Sys2Proof/Config.lean ====
section
/-! DEFINITION. The sizes and limits the spec fixes for the part. What the spec leaves open is an operand of
a command (log 2, 6, 10), but for one choice that no operand carries: a free value (log 44). -/

namespace Sys2Proof.Config

/-- Bytes of frame memory: 2 GiB (R166). -/
def frameMemoryBytes : Nat := 2147483648

/-- Bytes of the control area: 64 KiB (R166). -/
def controlAreaBytes : Nat := 65536

/-- The greatest AREA_BASE that START accepts, in 64 KiB units (R177). -/
def greatestAreaBase : Nat := 32767

/-- Pixels the line FIFO holds (R122). -/
def fifoPixels : Nat := 32768

/-- Host requests the host link holds (R167). -/
def hostRequests : Nat := 32

/-- Canvas rows in a channel's read-ahead window (R156). -/
def windowRows : Nat := 130

/-- Bytes of the greatest burst, and of the aligned block it stays in (R168). -/
def burstBlock : Nat := 256

/-- Entries of a bank's point pool (R33). -/
def poolEntries : Nat := 65536

/-- The most points of one mesh (R29). -/
def meshPoints : Nat := 16641

/-- The greatest span of v over an active cell (R32). -/
def spanLimit : Int := 8192

/-- Sample ticks of a training attempt (R152). -/
def attemptTicks : Nat := 500

/-- Sample ticks of a retry wait (R152). -/
def retryTicks : Nat := 1000

/-- Samples of the presence filter (R150). -/
def presenceSamples : Nat := 100

/-- Good periods in a row that lock the generator (R141). -/
def lockPeriods : Nat := 8

/-- The limit at which per-frame counts saturate (00_scope.md, Counters; R16, R159). -/
def countLimit : Nat := 4294967295

/-- The limit of the further-fault count (R191). -/
def furtherFaultLimit : Nat := 65535

/-- A free value, which nothing constrains: at the n-th such choice, the line whose edge the Bay Controller takes first of
those passed at one moment (R110, log 44). -/
opaque freeLine : Nat → Fin 4

end Sys2Proof.Config
end

