-- ==== Sys2Proof/Machine/Types.lean ====
section
/-! DEFINITION. The types the blocks' state is made of: names, records, requests. -/

namespace Sys2Proof.Machine

/-! ## Device Controller (10.1) -/

/-- The device states (R176). -/
inductive DeviceState where
  | idle
  | starting
  | running
  | stopping
deriving DecidableEq, Repr

/-- The start refusal reason, `ok` for none (R176, R178). -/
inductive StartRefusal where
  | ok
  | area
  | signature
  | profile
  | portmap
  | arena
deriving DecidableEq, Repr

/-- The blocks of the control area that START reads (R177). -/
inductive StartBlock where
  | header
  | bay (b : Fin 8)
  | setup (l : Fin 4)
deriving DecidableEq, Repr

/-- The Device Controller's state (R176), with the reads of a START that have returned (R177). -/
structure Device where
  state : DeviceState
  refusal : StartRefusal
  stopCount : Nat
  validatedArea : Option Nat
  returned : List (StartBlock × List Byte)
deriving DecidableEq, Repr

/-- The part of the profile that the Edition Checker, the channels and the ports latch (R180). -/
structure Layout where
  wr : Nat
  hr : Nat
  arenaLow : Nat
  arenaHigh : Nat
  enabled : BitVec 6
  portMap : Arr 6 Nat
deriving DecidableEq, Repr

/-! ## Link Endpoint (10.2, 10.3) -/

/-- A register access that changes something or is ignored, as RUN_CONTROL and the other registers
decode it (R185). -/
inductive RegisterAccess where
  | start
  | stop
  | reset
  | areaBase (w : RegWrite)
  | notice (w : RegWrite)
  | noticeEnable (w : RegWrite)
  | ignored
deriving DecidableEq, Repr

/-- An access the link has delivered and the part has not yet performed (R167, R185). A read keeps
the bytes it has already received, a write the bytes still to be written. -/
inductive LinkAccess where
  | write (address : Nat) (data : List Byte)
  | read (address length : Nat) (got : List Byte)
  | register (access : RegisterAccess)
deriving DecidableEq, Repr

/-- The data of a completed host read (R167). -/
structure ReadReturn where
  address : Nat
  data : List Byte
deriving DecidableEq, Repr

/-- The Link Endpoint: the three stored registers and the accesses in delivery order (R167, R185). -/
structure LinkEndpoint where
  areaBase : Word
  notice : Word
  noticeEnable : Word
  queue : List LinkAccess
  lastRead : Option ReadReturn
deriving DecidableEq, Repr

/-- The notice groups (R186). -/
inductive NoticeGroup where
  | device
  | bay
  | timing
  | source
  | channel
  | trigger
  | fault
deriving DecidableEq, Repr

/-! ## Frame Timing Generator (07) -/

/-- The timing states (R134). -/
inductive TimingState where
  | stopped
  | free
  | acquire
  | locked
  | holdover
deriving DecidableEq, Repr

/-- The lock modes (R134). -/
inductive LockMode where
  | freeOnly
  | follow
deriving DecidableEq, Repr

/-- The generator's state (R134). Times are ticks on the generator's own time line. -/
structure Timing where
  state : TimingState
  period : Nat
  lockMode : LockMode
  latency : Nat
  holdoverLimit : Nat
  frame : BitVec 64
  latestStart : Option Nat
  nextScheduled : Option Nat
  pendingPlacement : Option Nat
  latestInput : Option Nat
  measured : Nat
  goodRun : Nat
  deadline : Option Nat
  holdoverCount : Nat
deriving DecidableEq, Repr

/-! ## Capture Unit (06) -/

/-- The source link as it stands: no presence, or presence with its standing announcement (R115). -/
structure SourceLink where
  announcement : Option Format
deriving DecidableEq, Repr

/-- The capture states (R119). -/
inductive CaptureState where
  | noSignal
  | waiting
  | capturing
  | mismatch
deriving DecidableEq, Repr

/-- The slot states (R118). -/
inductive SlotState where
  | free
  | filling
  | complete
  | reading
deriving DecidableEq, Repr

/-- A slot: its state and its sequence number (R118). -/
structure Slot where
  state : SlotState
  sequence : Word
deriving DecidableEq, Repr

/-- A pixel in the line FIFO with its tag: the slot (none for a pixel of the pending frame, whose slot
fill-done assigns), the row and the column (R121, R123). -/
structure FifoPixel where
  slot : Option (Fin 3)
  row : Nat
  column : Nat
  codes : Pixel
deriving DecidableEq, Repr

/-- The Capture Unit's state (R116). -/
structure Capture where
  enabled : Bool
  state : CaptureState
  wc : Nat
  hc : Nat
  slotBase : Nat
  slotSize : Nat
  slots : Arr 3 Slot
  fillSequence : Word
  lines : Nat
  pendingStart : Bool
  pendingLines : Nat
  fifo : List FifoPixel
  dropped : Word
  repeated : Word
  discardedPartial : Word
  overflows : Word
deriving DecidableEq, Repr

/-! ## Bay Controller (04) -/

/-- The bay states (R72). -/
inductive BayState where
  | empty
  | offered
  | checking
  | ready
  | loading
  | staged
  | live
  | rejected
  | released
deriving DecidableEq, Repr

/-- The reject reasons (R193). -/
inductive RejectReason where
  | length
  | align
  | bounds
  | kind
  | header
  | raster
  | spacing
  | coverage
  | meshSize
  | tableSize
  | select
  | duplicate
  | range
  | span
  | missingMesh
  | pool
  | changed
  | memory
deriving DecidableEq, Repr

/-- The direction of a trigger edge (R107). -/
inductive Direction where
  | rise
  | fall
deriving DecidableEq, Repr

/-- The formats of mesh points (R31). -/
inductive PointFormat where
  | geometry
  | full
deriving DecidableEq, Repr

/-- What the check summary records of a channel's mesh (R58). -/
structure MeshGeometry where
  spacing : Nat
  columns : Nat
  rows : Nat
  format : PointFormat
deriving DecidableEq, Repr

/-- The check summary (R58). -/
structure CheckSummary where
  tag : Word
  endIndex : Nat
  decodeTaken : Bool
  meshes : Arr 6 (Option MeshGeometry)
deriving DecidableEq, Repr

/-- The shadow record of a bay (R73). -/
structure Bay where
  state : BayState
  goTaken : Byte
  goPending : Bool
  address : Nat
  length : Nat
  autoGo : Bool
  binding : Option (Fin 4 × Direction)
  rejectReason : Option RejectReason
  rejectIndex : Nat
  tag : Word
  poolPoints : Nat
  summary : Option CheckSummary
deriving DecidableEq, Repr

/-- The Bay Controller's state (R73, R92). -/
structure BayControl where
  bays : Arr 8 Bay
  liveBay : Option (Fin 8)
  liveTag : Word
  unserved : Word
deriving DecidableEq, Repr

/-! ## Editions (03) -/

/-- The item kinds (R47). -/
inductive ItemKind where
  | head
  | select
  | mesh
  | matrix
  | ramp
  | uplift
  | encode
  | decode
  | pad
  | endItem
deriving DecidableEq, Repr

/-- The fields of a MESH item (R55, R193). -/
structure MeshItem where
  spacingCode : Nat
  formatCode : Nat
  columns : Nat
  rows : Nat
  count : Nat
  last : Nat
deriving DecidableEq, Repr

/-- A read in progress: where its next byte lies, how many bytes are still to come, what has come. -/
structure ReadJob where
  address : Nat
  left : Nat
  got : List Byte
deriving DecidableEq, Repr

/-- What the read in progress of a walk is for (R59, R61, R66). -/
inductive WalkPhase where
  | header
  | contents
  | points (item : MeshItem)
  | encodeTable
  | decodeTable
deriving DecidableEq, Repr

/-- The taken marks (R52): for each channel item kind the channels that hold its mark, and the decode mark. -/
structure TakenMarks where
  mesh : BitVec 6
  matrix : BitVec 6
  ramp : BitVec 6
  uplift : BitVec 6
  encode : BitVec 6
  decode : Bool
deriving DecidableEq, Repr

/-- How a walk ended (R64, R69). -/
inductive WalkResult where
  | passed
  | rejected (reason : RejectReason) (index : Nat)
deriving DecidableEq, Repr

/-- What a load has beside a check: the recorded summary and the pool bases (R65). -/
structure LoadPlan where
  recorded : CheckSummary
  bases : Arr 6 Nat
deriving DecidableEq, Repr

/-- A walk over an edition: a check (R58), or a load when it has a plan (R65). -/
structure Walk where
  bay : Fin 8
  address : Nat
  length : Nat
  index : Nat
  offset : Nat
  units : Nat
  item : List Byte
  scope : Option (BitVec 6)
  marks : TakenMarks
  poolSum : Nat
  summary : CheckSummary
  phase : WalkPhase
  read : Option ReadJob
  result : Option WalkResult
  plan : Option LoadPlan
deriving DecidableEq, Repr

/-- The two users of the edition reader (R70). -/
inductive Reader where
  | checker
  | loader
deriving DecidableEq, Repr

/-- The Checker, the Loader, and whose read stands at the Fetch Arbiter (R58, R65, R70). -/
structure EditionReader where
  checker : Option Walk
  loader : Option Walk
  presented : Option Reader
deriving DecidableEq, Repr

/-! ## Table Store (02) -/

/-- The two banks (R26). -/
inductive BankName where
  | a
  | b
deriving DecidableEq, Repr

/-- A mesh point as a bank holds it (R27, R31). -/
structure MeshPoint where
  u : Int
  v : Int
  w : Nat
  q : Nat
  void : Bool
deriving DecidableEq, Repr

/-- The channel record of a bank (R27). -/
structure ChannelTables where
  meshPresent : Bool
  spacing : Nat
  columns : Nat
  rows : Nat
  poolBase : Nat
  matrix : List Int
  ramp : List Nat
  uplift : RGB Nat
  encode : List Nat
deriving DecidableEq, Repr

/-- The words of a bank that carry a parity bit (R42). The geometry word holds a channel's spacing,
columns, rows and pool base (log 18). -/
inductive TableWord where
  | meshMark (c : Fin 6)
  | geometry (c : Fin 6)
  | matrix (c : Fin 6) (i : Nat)
  | ramp (c : Fin 6) (i : Nat)
  | uplift (c : Fin 6) (i : Nat)
  | encode (c : Fin 6) (i : Nat)
  | decode (i : Nat)
  | point (i : Nat)
deriving DecidableEq, Repr

/-- A bank (R27) with the words whose stored parity does not match (R42). -/
structure Bank where
  channels : Arr 6 ChannelTables
  decode : List Nat
  pool : List MeshPoint
  bad : List TableWord
deriving DecidableEq, Repr

/-- The Table Store: two banks and the bank select, which names the active one (R26). -/
structure TableStore where
  bankA : Bank
  bankB : Bank
  select : BankName
deriving DecidableEq, Repr

/-- A write of the Loader into the staging bank (R66, R40). -/
inductive BankWrite where
  | mesh (c : Fin 6) (geometry : MeshGeometry) (base : Nat) (points : List MeshPoint)
  | matrix (c : Fin 6) (values : List Int)
  | ramp (c : Fin 6) (values : List Nat)
  | uplift (c : Fin 6) (values : RGB Nat)
  | encode (c : Fin 6) (values : List Nat)
  | decode (values : List Nat)
  | finish (marks : TakenMarks)
deriving DecidableEq, Repr

/-! ## Render channels and ports (01, 08) -/

/-- Three output codes (R1). -/
abbrev Codes := RGB Nat

/-- The modes of a channel (R160). -/
inductive Mode where
  | mute
  | picture
  | flat
  | grid
deriving DecidableEq, Repr

/-- A pixel computed ahead of its due time: its codes, and whether it is clipped (R16, R157). -/
structure ReadyPixel where
  codes : Codes
  clipped : Bool
deriving DecidableEq, Repr

/-- A canvas row in a read-ahead window, from its request on, with the bytes that have arrived (R156). -/
structure WindowRow where
  row : Nat
  got : List Byte
deriving DecidableEq, Repr

/-- A render channel (R16, R17, R156, R159, R160, R161). -/
structure Channel where
  mode : Mode
  flat : Codes
  quarantined : Bool
  clipRunning : Nat
  clipLast : Nat
  lateRunning : Nat
  lateLast : Nat
  lateLine : Option Nat
  rendering : Bool
  nextPixel : Nat
  ready : List ReadyPixel
  window : List WindowRow
deriving DecidableEq, Repr

/-- The link states of a port (R149). -/
inductive LinkState where
  | off
  | down
  | training
  | up
deriving DecidableEq, Repr

/-- The phases of training (R149). -/
inductive TrainingPhase where
  | attempt
  | retryWait
deriving DecidableEq, Repr

/-- A projector link port (R149, R157), with the level of its presence line. `attempt` numbers the training attempts
begun at the port, so that a training-done of an earlier attempt is told from one of the attempt in progress (R151,
log 38). -/
structure Port where
  state : LinkState
  presence : Bool
  presenceRun : Nat
  failures : Nat
  phase : Option TrainingPhase
  attempt : Nat
  attemptTimer : Nat
  retryTimer : Nat
  presenceLine : Bool
  position : Nat
  sent : Codes
deriving DecidableEq, Repr

/-! ## Trigger Unit (05) -/

/-- The combine settings (R99). -/
inductive Combine where
  | pin
  | alt
  | pinOrAlt
  | pinAndAlt
deriving DecidableEq, Repr

/-- The alternate sources (R99). -/
inductive AltSource where
  | aspectWide
  | portDown (p : Fin 6)
deriving DecidableEq, Repr

/-- The edge settings (R99). -/
inductive EdgeSetting where
  | none
  | rise
  | fall
  | both
deriving DecidableEq, Repr

/-- The latched setup of a line (R99, R100). -/
structure LineSetup where
  combine : Combine
  alt : AltSource
  filter : Nat
  edge : EdgeSetting
  holdOff : Nat
deriving DecidableEq, Repr

/-- A trigger line (R99). `levelDue`: the latest sample brought the run count to the filter length, and
the filtered level is about to take it (R103). -/
structure Line where
  setup : LineSetup
  filtered : Bool
  run : Nat
  levelDue : Bool
  combined : Bool
  delivered : Bool
  holdOffActive : Bool
  holdOffLeft : Nat
  pin : Bool
deriving DecidableEq, Repr

/-- A passed edge that waits for the Bay Controller; `together` marks one passed at the same moment as the one before it
(R109, R110). -/
structure PassedEdge where
  line : Fin 4
  direction : Direction
  together : Bool
deriving DecidableEq, Repr

/-- The Trigger Unit (R99, R110): the passed edges wait for the Bay Controller in delivery order. `choices` counts the edges
taken by PASSED_EDGE, to which the free value of log 44 is applied. -/
structure Triggers where
  runMark : Bool
  lines : Arr 4 Line
  edges : List PassedEdge
  choices : Nat
deriving DecidableEq, Repr

/-! ## Frame memory, arbiter, Notice Unit (09, 10) -/

/-- Frame memory, the errors of its words, and the corrected-error count (R166, R171, R172). -/
structure Memory where
  cells : List Host.Cell
  errors : List (Nat × EccError)
  corrected : Word
deriving DecidableEq, Repr

/-- The requesters of the Fetch Arbiter (R168). -/
inductive Requester where
  | captureWriter
  | fetcher (c : Fin 6)
  | hostLink
  | editionReader
  | statusWriter
deriving DecidableEq, Repr

/-- The Fetch Arbiter's state (R170) and the share exponent k it latched (R169). -/
structure Arbiter where
  grant : Option Requester
  share : Nat
  pointer : Fin 6
  exponent : Nat
deriving DecidableEq, Repr

/-- A request of the status writer (R168): one burst of bytes to be written, or one of the reads of a
START, with the mark that its data is still wanted (R179). -/
inductive StatusRequest where
  | write (cells : List (Nat × Byte))
  | startRead (block : StartBlock) (address length : Nat) (wanted : Bool)
deriving DecidableEq, Repr

/-- The kinds of fault (R190). -/
inductive FaultKind where
  | table
  | memory
  | link
deriving DecidableEq, Repr

/-- The fault record (R190). -/
structure FaultRecord where
  occupied : Bool
  sequence : BitVec 16
  kind : Option FaultKind
  detail : Word
  frame : BitVec 64
  further : Nat
  seenTable : Bool
  seenMemory : Bool
  seenLink : Bool
deriving DecidableEq, Repr

/-- The Notice Unit with the status writer's requests in the order taken (R168, R189, R190). -/
structure Status where
  queue : List StatusRequest
  snapshotCount : Word
  fault : FaultRecord
deriving DecidableEq, Repr

end Sys2Proof.Machine
end

