-- ==== Sys2Proof/Machine/Tables.lean ====
section
/-! DEFINITION. The contents of the Table Store: default tables, the blank bank, reads and the Loader's writes. -/

namespace Sys2Proof.Machine

/-- The default matrix, the identity (R35). -/
def defaultMatrix : List Int := [4096, 0, 0, 0, 4096, 0, 0, 0, 4096]

/-- The default ramp R[k] = 256k (R36). -/
def defaultRamp : List Nat := (List.range 17).map (fun k => 256 * k)

/-- The default uplift, 0 for each component (R37). -/
def defaultUplift : RGB Nat := ⟨0, 0, 0⟩

/-- The default encode table E[k] = min(k, 1023) (R38). -/
def defaultEncode : List Nat := (List.range 1025).map (fun k => min k 1023)

/-- The default decode table D[c] = floor(c·65535/1023) (R39). -/
def defaultDecode : List Nat := (List.range 1024).map (fun c => c * 65535 / 1023)

/-- A pool entry of a blank bank (R28). -/
def blankPoint : MeshPoint := ⟨0, 0, 4096, 0, false⟩

/-- A channel record of a blank bank (R28). -/
def blankChannel : ChannelTables where
  meshPresent := false
  spacing := 16
  columns := 0
  rows := 0
  poolBase := 0
  matrix := defaultMatrix
  ramp := defaultRamp
  uplift := defaultUplift
  encode := defaultEncode

/-- The blank bank, every word with fresh parity (R28). -/
def blankBank : Bank where
  channels := Arr.replicate 6 blankChannel
  decode := defaultDecode
  pool := List.replicate Config.poolEntries blankPoint
  bad := []

namespace TableStore

/-- The bank that is not named (R26). -/
def other : BankName → BankName
  | .a => .b
  | .b => .a

/-- The bank of a name (R26). -/
def bank (t : TableStore) : BankName → Bank
  | .a => t.bankA
  | .b => t.bankB

/-- The active bank, named by the bank select (R26). -/
def active (t : TableStore) : Bank := t.bank t.select

/-- The staging bank (R26). -/
def staging (t : TableStore) : Bank := t.bank (other t.select)

/-- The store with its staging bank changed (R26, R66). -/
def modifyStaging (t : TableStore) (f : Bank → Bank) : TableStore :=
  match t.select with
  | .a => { t with bankB := f t.bankB }
  | .b => { t with bankA := f t.bankA }

/-- The exchange of the banks: the bank select changes and nothing else (R26, R78). -/
def exchange (t : TableStore) : TableStore := { t with select := other t.select }

/-- Both banks blanked, the bank select kept (R28, end of a STOP). -/
def blankBoth (t : TableStore) : TableStore := { t with bankA := blankBank, bankB := blankBank }

end TableStore

namespace Bank

/-- The bank with fresh parity on the words that satisfy `p` (R42). -/
def freshen (b : Bank) (p : TableWord → Bool) : Bank :=
  { b with bad := b.bad.filter (fun w => !p w) }

/-- The words a load of channel `c`'s mesh writes into the bank (R40, R42). -/
def meshWords (c : Fin 6) (base count : Nat) : TableWord → Bool
  | .meshMark d => decide (d = c)
  | .geometry d => decide (d = c)
  | .point i => decide (base ≤ i ∧ i < base + count)
  | _ => false

/-- The channel record changed by `f` (R40). -/
def modifyChannel (b : Bank) (c : Fin 6) (f : ChannelTables → ChannelTables) : Bank :=
  { b with channels := b.channels.modify c f }

/-- The points of a mesh written into the pool from the pool base upward (R30). -/
def splice (pool : List MeshPoint) (base : Nat) (points : List MeshPoint) : List MeshPoint :=
  pool.take base ++ (points.take (pool.length - base) ++ pool.drop (base + points.length))

/-- The words of a channel's colour tables that a load writes (R40, R42). -/
def isMatrix (c : Fin 6) : TableWord → Bool
  | .matrix d _ => decide (d = c)
  | _ => false

/-- The ramp words of a channel (R42). -/
def isRamp (c : Fin 6) : TableWord → Bool
  | .ramp d _ => decide (d = c)
  | _ => false

/-- The uplift words of a channel (R42). -/
def isUplift (c : Fin 6) : TableWord → Bool
  | .uplift d _ => decide (d = c)
  | _ => false

/-- The encode words of a channel (R42). -/
def isEncode (c : Fin 6) : TableWord → Bool
  | .encode d _ => decide (d = c)
  | _ => false

/-- The decode words of a bank (R42). -/
def isDecode : TableWord → Bool
  | .decode _ => true
  | _ => false

/-- The mesh-present words of a bank (R42). -/
def isMeshMark : TableWord → Bool
  | .meshMark _ => true
  | _ => false

/-- What the Loader writes after END: the mesh-present marks, the geometry of a channel that takes no mesh, which is that of
a blank record (R28; DEDUCED, log 45), and the default of every table the edition left out (R40, R66). -/
def finishChannel (marks : TakenMarks) (c : Fin 6) (t : ChannelTables) : ChannelTables :=
  let meshed := marks.mesh.getLsbD c.val
  { t with
    meshPresent := meshed
    spacing := if meshed then t.spacing else blankChannel.spacing
    columns := if meshed then t.columns else blankChannel.columns
    rows := if meshed then t.rows else blankChannel.rows
    poolBase := if meshed then t.poolBase else blankChannel.poolBase
    matrix := if marks.matrix.getLsbD c.val then t.matrix else defaultMatrix
    ramp := if marks.ramp.getLsbD c.val then t.ramp else defaultRamp
    uplift := if marks.uplift.getLsbD c.val then t.uplift else defaultUplift
    encode := if marks.encode.getLsbD c.val then t.encode else defaultEncode }

/-- The words that the writes after END cover: every word of a channel record that no item of the edition gave (R40, R42). -/
def finishWords (marks : TakenMarks) : TableWord → Bool
  | .meshMark _ => true
  | .matrix c _ => !marks.matrix.getLsbD c.val
  | .ramp c _ => !marks.ramp.getLsbD c.val
  | .uplift c _ => !marks.uplift.getLsbD c.val
  | .encode c _ => !marks.encode.getLsbD c.val
  | .decode _ => !marks.decode
  | .geometry c => !marks.mesh.getLsbD c.val
  | .point _ => false

/-- One write of the Loader into a bank, with fresh parity on the words written (R40, R42, R66). -/
def write (b : Bank) : BankWrite → Bank
  | .mesh c g base points =>
      let t := b.modifyChannel c (fun t =>
        { t with
          meshPresent := true
          spacing := g.spacing
          columns := g.columns
          rows := g.rows
          poolBase := base })
      let u := { t with pool := splice t.pool base points }
      u.freshen (meshWords c base points.length)
  | .matrix c values => (b.modifyChannel c (fun t => { t with matrix := values })).freshen (isMatrix c)
  | .ramp c values => (b.modifyChannel c (fun t => { t with ramp := values })).freshen (isRamp c)
  | .uplift c values => (b.modifyChannel c (fun t => { t with uplift := values })).freshen (isUplift c)
  | .encode c values => (b.modifyChannel c (fun t => { t with encode := values })).freshen (isEncode c)
  | .decode values => { b with decode := values }.freshen isDecode
  | .finish marks =>
      let channels := Arr.build (fun c => finishChannel marks c (b.channels.get c))
      { b with
        channels := channels
        decode := if marks.decode then b.decode else defaultDecode }.freshen (finishWords marks)

/-- The point (c, r) of a channel's mesh stands at pool base + r·columns + c (R30). -/
def pointIndex (t : ChannelTables) (column row : Nat) : Nat := t.poolBase + row * t.columns + column

/-- The pool entry at an index (R30). -/
def pointAt (b : Bank) (i : Nat) : MeshPoint := b.pool.getD i blankPoint

/-- The words among `ws` whose stored parity does not match (R42). -/
def anyBad (b : Bank) (ws : List TableWord) : Bool := ws.any (fun w => decide (w ∈ b.bad))

/-- A bank is blank when no channel has a mesh (R28). -/
def blank (b : Bank) : Bool := b.channels.toList.all (fun t => !t.meshPresent)

end Bank

end Sys2Proof.Machine
end

