-- ==== Sys2Proof/Machine/Resets.lean ====
section
/-! DEFINITION. What each block holds after power-on reset and device reset. -/

namespace Sys2Proof.Machine

/-- The Device Controller after a reset (R176). -/
def resetDevice : Device := ⟨.idle, .ok, 0, none, []⟩

/-- The profile's values after a reset: no channel is enabled (R164); the other fields are 0, a value
the model names (DESIGN CHOICE, log 24). -/
def resetLayout : Layout := ⟨0, 0, 0, 0, 0, Arr.replicate 6 0⟩

/-- The Link Endpoint after power-on reset (R184; 10.2). -/
def resetLink : LinkEndpoint := ⟨0, 0, 0, [], none⟩

/-- The generator after a reset (R134). -/
def resetTiming : Timing where
  state := .stopped
  period := 0
  lockMode := .freeOnly
  latency := 0
  holdoverLimit := 0
  frame := 0
  latestStart := none
  nextScheduled := none
  pendingPlacement := none
  latestInput := none
  measured := 0
  goodRun := 0
  deadline := none
  holdoverCount := 0

/-- The Capture Unit after a reset (R116). -/
def resetCapture : Capture where
  enabled := false
  state := .noSignal
  wc := 0
  hc := 0
  slotBase := 0
  slotSize := 0
  slots := Arr.replicate 3 ⟨.free, 0⟩
  fillSequence := 0
  lines := 0
  pendingStart := false
  pendingLines := 0
  fifo := []
  dropped := 0
  repeated := 0
  discardedPartial := 0
  overflows := 0

/-- A shadow record after a reset (R73). -/
def resetBay : Bay where
  state := .empty
  goTaken := 0
  goPending := false
  address := 0
  length := 0
  autoGo := false
  binding := none
  rejectReason := none
  rejectIndex := 0
  tag := 0
  poolPoints := 0
  summary := none

/-- The Bay Controller after a reset (R73, R92, R97). -/
def resetBays : BayControl := ⟨Arr.replicate 8 resetBay, none, 0, 0⟩

/-- The Checker and the Loader after a reset: idle (R58, R65). -/
def resetReader : EditionReader := ⟨none, none, none⟩

/-- The Table Store after a reset: both banks blank, bank A active (R26, R28). -/
def resetStore : TableStore := ⟨blankBank, blankBank, .a⟩

/-- A render channel after a reset (R17, R159, R160, R162). -/
def resetChannel : Channel where
  mode := .mute
  flat := ⟨0, 0, 0⟩
  quarantined := false
  clipRunning := 0
  clipLast := 0
  lateRunning := 0
  lateLast := 0
  lateLine := none
  rendering := false
  nextPixel := 0
  ready := []
  window := []

/-- A port after a reset (R149). The level of the presence line stands outside the part: `line`; the number of the latest
training attempt is kept, so that a late training-done is discarded (R155, log 38): `attempt`. -/
def resetPort (line : Bool) (attempt : Nat) : Port where
  state := .off
  presence := false
  presenceRun := 0
  failures := 0
  phase := none
  attempt := attempt
  attemptTimer := 0
  retryTimer := 0
  presenceLine := line
  position := 0
  sent := ⟨0, 0, 0⟩

/-- A trigger line after a reset (R99). The pin's level stands outside the part: `pin`. -/
def resetLine (pin : Bool) : Line where
  setup := ⟨.pin, .aspectWide, 0, .none, 0⟩
  filtered := false
  run := 0
  levelDue := false
  combined := false
  delivered := false
  holdOffActive := false
  holdOffLeft := 0
  pin := pin

/-- The Trigger Unit after power-on with all pins low and no choice made (R99, R113; log 25, log 44). -/
def resetTriggers : Triggers := ⟨false, Arr.replicate 4 (resetLine false), [], 0⟩

/-- The Fetch Arbiter after a reset (R170; k is a value the model names, log 24). -/
def resetArbiter : Arbiter := ⟨none, 0, 5, 0⟩

/-- Frame memory with nothing listed and a cleared corrected-error count (R171; log 2). -/
def resetMemory : Memory := ⟨[], [], 0⟩

/-- The empty fault record (R190). -/
def emptyFault : FaultRecord := ⟨false, 0, none, 0, 0, 0, false, false, false⟩

/-- The Notice Unit after a reset (R189, R190); the status writer's requests are withdrawn (R170). -/
def resetStatus : Status := ⟨[], 0, emptyFault⟩

end Sys2Proof.Machine
end

