-- ==== Sys2Proof/Machine/State.lean ====
section
/-! DEFINITION. The state of the block, its faults and refusals, and its value after reset. -/

namespace Sys2Proof.Machine

/-- The state: the queue of waiting commands and every block's state (INVENTORY.md, State). -/
structure State where
  pending : List Instr
  device : Device
  layout : Layout
  link : LinkEndpoint
  timing : Timing
  source : SourceLink
  capture : Capture
  bays : BayControl
  reader : EditionReader
  store : TableStore
  channels : Arr 6 Channel
  ports : Arr 6 Port
  triggers : Triggers
  arbiter : Arbiter
  memory : Memory
  status : Status
deriving DecidableEq, Repr

/-- Why a step stops. -/
inductive Fault where
  /-- Raised by HOST_WRITE and HOST_READ for an access that runs past the last byte of frame memory,
  which the memory window does not cover (R167); safe (log 26). -/
  | outsideFrameMemory (address length : Nat)
deriving DecidableEq, Repr

/-- Why a command has no meaning. -/
inductive Refusal where
  /-- Raised by exec for a command that has no meaning yet; safe. No arm uses it. -/
  | notModelled (mnemonic : String)
deriving DecidableEq, Repr

/-- The outcome of a command. -/
abbrev Result := Host.Outcome State Fault Refusal

/-- The machine right after power-on reset (R184 and each block's own rule), with the inputs from
outside at rest (log 25) and frame memory with nothing listed (log 2). -/
def State.reset : State where
  pending := []
  device := resetDevice
  layout := resetLayout
  link := resetLink
  timing := resetTiming
  source := ⟨none⟩
  capture := resetCapture
  bays := resetBays
  reader := resetReader
  store := resetStore
  channels := Arr.replicate 6 resetChannel
  ports := Arr.replicate 6 (resetPort false 0)
  triggers := resetTriggers
  arbiter := resetArbiter
  memory := resetMemory
  status := resetStatus

namespace State

/-- The state with another `pending`. -/
def setPending (s : State) (v : List Instr) : State := { s with pending := v }

/-- The state with another `device`. -/
def setDevice (s : State) (v : Device) : State := { s with device := v }

/-- The state with another `layout`. -/
def setLayout (s : State) (v : Layout) : State := { s with layout := v }

/-- The state with another `link`. -/
def setLink (s : State) (v : LinkEndpoint) : State := { s with link := v }

/-- The state with another `timing`. -/
def setTiming (s : State) (v : Timing) : State := { s with timing := v }

/-- The state with another `source`. -/
def setSource (s : State) (v : SourceLink) : State := { s with source := v }

/-- The state with another `capture`. -/
def setCapture (s : State) (v : Capture) : State := { s with capture := v }

/-- The state with another `bays`. -/
def setBays (s : State) (v : BayControl) : State := { s with bays := v }

/-- The state with another `reader`. -/
def setReader (s : State) (v : EditionReader) : State := { s with reader := v }

/-- The state with another `store`. -/
def setStore (s : State) (v : TableStore) : State := { s with store := v }

/-- The state with another `channels`. -/
def setChannels (s : State) (v : Arr 6 Channel) : State := { s with channels := v }

/-- The state with another `ports`. -/
def setPorts (s : State) (v : Arr 6 Port) : State := { s with ports := v }

/-- The state with another `triggers`. -/
def setTriggers (s : State) (v : Triggers) : State := { s with triggers := v }

/-- The state with another `arbiter`. -/
def setArbiter (s : State) (v : Arbiter) : State := { s with arbiter := v }

/-- The state with another `memory`. -/
def setMemory (s : State) (v : Memory) : State := { s with memory := v }

/-- The state with another `status`. -/
def setStatus (s : State) (v : Status) : State := { s with status := v }

end State

end Sys2Proof.Machine
end

