-- ==== Sys2Proof/Machine/Operands.lean ====
section
/-! DEFINITION. How operands and fields are read and written: register writes, little-endian fields, the codes of
states, and the layouts of the control area and of editions (R185, R193). -/

namespace Sys2Proof.Machine

/-! ## Register writes (R185) -/

/-- Byte `i` of a word is all ones where the write enables it. -/
def writeMask (w : RegWrite) : Word :=
  let byte (i : Nat) : Word := if w.enables.getLsbD i then BitVec.ofNat 32 (255 * 256 ^ i) else 0
  byte 0 ||| byte 1 ||| byte 2 ||| byte 3

/-- The whole-register value of a write whose unwritten bytes are filled from `base` (R185). -/
def fillWrite (w : RegWrite) (base : Word) : Word :=
  (w.value &&& writeMask w) ||| (base &&& ~~~ writeMask w)

/-- What a write of RUN_CONTROL asks for, unwritten bytes filled with zeros: bit 2 is a RESET whatever
the others hold; bit 0 alone a START, bit 1 alone a STOP; otherwise nothing (R185). -/
def runControlCommand (w : RegWrite) : Option Instr :=
  let v := fillWrite w 0
  if v.getLsbD 2 then some .reset
  else if v.getLsbD 0 && !v.getLsbD 1 then some .start
  else if v.getLsbD 1 && !v.getLsbD 0 then some .stop
  else none

/-- The value stored by a write of AREA_BASE over the present value: bits 31:16 (R185). -/
def areaBaseValue (w : RegWrite) (present : Word) : Word := fillWrite w present &&& 0xFFFF0000#32

/-- The value of NOTICE after a host write, unwritten bytes filled with ones: a 0 clears the bit, a 1
leaves it (R185, R186). -/
def noticeValue (w : RegWrite) (present : Word) : Word := present &&& fillWrite w 0xFFFFFFFF#32

/-- The value stored by a write of NOTICE_ENABLE: bits 6:0 (R185; 10.2). -/
def noticeEnableValue (w : RegWrite) (present : Word) : Word := fillWrite w present &&& 0x7F#32

/-! ## Little-endian fields (R193) -/

/-- The number that bytes spell, the first byte the least significant. -/
def leNat : List Byte → Nat
  | [] => 0
  | b :: rest => b.toNat + 256 * leNat rest

/-- The `size`-byte field at `offset` of `bytes`. -/
def field (bytes : List Byte) (offset size : Nat) : Nat := leNat ((bytes.drop offset).take size)

/-- The one-byte field at `offset`. -/
def byteAt (bytes : List Byte) (offset : Nat) : Byte := bytes.getD offset 0

/-- The two's complement field at `offset` (R193). -/
def signedField (bytes : List Byte) (offset size : Nat) : Int :=
  (BitVec.ofNat (8 * size) (field bytes offset size)).toInt

/-- A number as `size` bytes, least significant first. -/
def leBytes : Nat → Nat → List Byte
  | 0, _ => []
  | size + 1, v => BitVec.ofNat 8 v :: leBytes size (v / 256)

/-- A list cut into pieces of `size`, as many as `count`. -/
def chunks {α : Type} (size : Nat) : Nat → List α → List (List α)
  | 0, _ => []
  | count + 1, l => l.take size :: chunks size count (l.drop size)

/-! ## Codes (10.6) -/

/-- The code of a device state. -/
def DeviceState.code : DeviceState → Nat
  | .idle => 0
  | .starting => 1
  | .running => 2
  | .stopping => 3

/-- The code of a start refusal reason, 0 for none (R178). -/
def StartRefusal.code : StartRefusal → Nat
  | .ok => 0
  | .area => 1
  | .signature => 2
  | .profile => 3
  | .portmap => 4
  | .arena => 5

/-- The code of a timing state. -/
def TimingState.code : TimingState → Nat
  | .stopped => 0
  | .free => 1
  | .acquire => 2
  | .locked => 3
  | .holdover => 4

/-- The code of a capture state. -/
def CaptureState.code : CaptureState → Nat
  | .noSignal => 0
  | .waiting => 1
  | .capturing => 2
  | .mismatch => 3

/-- The code of a link state. -/
def LinkState.code : LinkState → Nat
  | .off => 0
  | .down => 1
  | .training => 2
  | .up => 3

/-- The code of a bay state. -/
def BayState.code : BayState → Nat
  | .empty => 0
  | .offered => 1
  | .checking => 2
  | .ready => 3
  | .loading => 4
  | .staged => 5
  | .live => 6
  | .rejected => 7
  | .released => 8

/-- The code of a reject reason. -/
def RejectReason.code : RejectReason → Nat
  | .length => 1
  | .align => 2
  | .bounds => 3
  | .kind => 4
  | .header => 5
  | .raster => 6
  | .spacing => 7
  | .coverage => 8
  | .meshSize => 9
  | .tableSize => 10
  | .select => 11
  | .duplicate => 12
  | .range => 13
  | .span => 14
  | .missingMesh => 15
  | .pool => 16
  | .changed => 17
  | .memory => 18

/-- The code of an optional reject reason, 0 for none. -/
def rejectCode : Option RejectReason → Nat
  | none => 0
  | some r => r.code

/-- The code of a mode. -/
def Mode.code : Mode → Nat
  | .mute => 0
  | .picture => 1
  | .flat => 2
  | .grid => 3

/-- The code of a fault kind (R190). -/
def FaultKind.code : FaultKind → Nat
  | .table => 1
  | .memory => 2
  | .link => 3

/-- The bit of a notice group in NOTICE (R186). -/
def NoticeGroup.bit : NoticeGroup → Nat
  | .device => 0
  | .bay => 1
  | .timing => 2
  | .source => 3
  | .channel => 4
  | .trigger => 5
  | .fault => 6

/-- A bit as a byte. -/
def boolByte (b : Bool) : Byte := if b then 1 else 0

/-! ## The header (R178, R193) -/

/-- The fields of the header as read. -/
structure Header where
  signature : Nat
  wc : Nat
  hc : Nat
  wr : Nat
  hr : Nat
  period : Nat
  lockMode : Nat
  mask : Nat
  exponent : Nat
  holdoverLimit : Nat
  latency : Nat
  portMap : Arr 6 Nat
  slotBase : Nat
  arenaLow : Nat
  arenaHigh : Nat
deriving DecidableEq, Repr

/-- The bytes of the header that the part reads, from its offset 0. -/
def headerBytes : Nat := 52

/-- The header that bytes spell. -/
def parseHeader (b : List Byte) : Header where
  signature := field b 0x00 4
  wc := field b 0x04 2
  hc := field b 0x06 2
  wr := field b 0x08 2
  hr := field b 0x0A 2
  period := field b 0x0C 4
  lockMode := field b 0x10 1
  mask := field b 0x11 1
  exponent := field b 0x12 1
  holdoverLimit := field b 0x14 2
  latency := field b 0x18 4
  portMap := Arr.build (fun i => field b (0x1C + i.val) 1)
  slotBase := field b 0x28 4
  arenaLow := field b 0x2C 4
  arenaHigh := field b 0x30 4

/-- The slot size: Wc × Hc × 4 rounded up to the next multiple of 4096 (R117). -/
def slotSizeOf (wc hc : Nat) : Nat := (wc * hc * 4 + 4095) / 4096 * 4096

/-- The signature of a header (R178). -/
def headerSignature : Nat := 0x54360001

/-- Whether the PROFILE test refuses the header (R178). -/
def Header.badProfile (h : Header) : Bool :=
  decide (¬ (640 ≤ h.wc ∧ h.wc ≤ 7680)) ||
  decide (¬ (360 ≤ h.hc ∧ h.hc ≤ 2160)) ||
  decide (¬ (640 ≤ h.wr ∧ h.wr ≤ 3840 ∧ h.wr % 8 = 0)) ||
  decide (¬ (360 ≤ h.hr ∧ h.hr ≤ 2160)) ||
  decide (¬ (225000 ≤ h.period ∧ h.period ≤ 1126126)) ||
  decide (1 < h.lockMode) ||
  decide (h.period / 2 < h.latency) ||
  decide (1000 < h.holdoverLimit) ||
  decide (h.mask = 0 ∨ 63 < h.mask) ||
  decide (h.slotBase % 4096 ≠ 0 ∨ h.arenaLow % 4096 ≠ 0 ∨ h.arenaHigh % 4096 ≠ 0) ||
  decide (h.arenaHigh ≤ h.arenaLow) ||
  decide (7 < h.exponent)

/-- Whether channel `c` is enabled in the header's mask (R178). -/
def Header.channelEnabled (h : Header) (c : Fin 6) : Bool := h.mask.testBit c.val

/-- Whether the PORTMAP test refuses the header: an enabled channel's entry above 5, or two enabled
channels with the same entry (R178). -/
def Header.badPortMap (h : Header) : Bool :=
  (allOf 6).any fun c => h.channelEnabled c &&
    (decide (5 < h.portMap.get c) ||
      (allOf 6).any fun d => h.channelEnabled d && decide (d ≠ c) &&
        decide (h.portMap.get d = h.portMap.get c))

/-- Whether two regions [a, a+n) and [b, b+m) share a byte. -/
def overlap (a n b m : Nat) : Bool := decide (a < b + m ∧ b < a + n)

/-- Whether the ARENA test refuses the header, the control area standing at `area` (R178). -/
def Header.badRegions (h : Header) (area : Nat) : Bool :=
  let slots := 3 * slotSizeOf h.wc h.hc
  let arena := h.arenaHigh - h.arenaLow
  decide (Config.frameMemoryBytes < h.slotBase + slots) ||
  decide (Config.frameMemoryBytes < h.arenaHigh) ||
  overlap area Config.controlAreaBytes h.slotBase slots ||
  overlap area Config.controlAreaBytes h.arenaLow arena ||
  overlap h.slotBase slots h.arenaLow arena

/-- The judgement of the header in the order of R178. -/
def Header.judge (h : Header) (area : Nat) : StartRefusal :=
  if h.signature ≠ headerSignature then .signature
  else if h.badProfile then .profile
  else if h.badPortMap then .portmap
  else if h.badRegions area then .arena
  else .ok

/-! ## Bay records (R71, R193) -/

/-- The host's fields of a bay record as the scan reads them. -/
structure BayRecord where
  state : Nat
  address : Nat
  length : Nat
  goRequest : Byte
  autoGo : Bool
  binding : Option (Fin 4 × Direction)
  withdraw : Bool
deriving DecidableEq, Repr

/-- The bytes of a bay record that the part reads, from its offset 0. -/
def bayRecordBytes : Nat := 21

/-- The trigger binding: line code 0 and undefined codes are NONE, as is an undefined direction (R71). -/
def bindingOf (line direction : Nat) : Option (Fin 4 × Direction) :=
  let l : Option (Fin 4) :=
    match line with
    | 1 => some 0
    | 2 => some 1
    | 3 => some 2
    | 4 => some 3
    | _ => none
  match l, direction with
  | some l, 1 => some (l, .rise)
  | some l, 2 => some (l, .fall)
  | _, _ => none

/-- The bay record that bytes spell. -/
def parseBay (b : List Byte) : BayRecord where
  state := field b 0x00 1
  address := field b 0x04 4
  length := field b 0x08 4
  goRequest := byteAt b 0x10
  autoGo := decide (field b 0x11 1 ≠ 0)
  binding := bindingOf (field b 0x12 1) (field b 0x13 1)
  withdraw := decide (field b 0x14 1 ≠ 0)

/-! ## Trigger setup (R100, R193) -/

/-- The bytes of a setup record that the part reads. -/
def setupBytes : Nat := 6

/-- The combine code, undefined codes taken as PIN (R100). -/
def combineOf : Nat → Combine
  | 1 => .alt
  | 2 => .pinOrAlt
  | 3 => .pinAndAlt
  | _ => .pin

/-- The alternate source code, undefined codes taken as ASPECT_WIDE (R100). -/
def altOf : Nat → AltSource
  | 1 => .portDown 0
  | 2 => .portDown 1
  | 3 => .portDown 2
  | 4 => .portDown 3
  | 5 => .portDown 4
  | 6 => .portDown 5
  | _ => .aspectWide

/-- The edge code, undefined codes taken as NONE (R100). -/
def edgeOf : Nat → EdgeSetting
  | 1 => .rise
  | 2 => .fall
  | 3 => .both
  | _ => .none

/-- The setup record that bytes spell. -/
def parseSetup (b : List Byte) : LineSetup where
  combine := combineOf (field b 0x00 1)
  alt := altOf (field b 0x01 1)
  filter := field b 0x02 1
  edge := edgeOf (field b 0x03 1)
  holdOff := field b 0x04 2

/-! ## Channel controls (R160, R193) -/

/-- The bytes of a channel control record that the part reads. -/
def controlBytes : Nat := 8

/-- The mode code, undefined codes taken as MUTE (R160). -/
def modeOf : Nat → Mode
  | 1 => .picture
  | 2 => .flat
  | 3 => .grid
  | _ => .mute

/-- The flat codes of a control record, each held to 1023 (R160). -/
def flatOf (b : List Byte) : Codes :=
  ⟨min (field b 0x02 2) 1023, min (field b 0x04 2) 1023, min (field b 0x06 2) 1023⟩

/-! ## Offsets in the control area (R193) -/

/-- The offset of the freeze field. -/
def freezeOffset : Nat := 0x0100

/-- The offset of fault_ack. -/
def faultAckOffset : Nat := 0x0104

/-- The offset of a trigger setup record. -/
def setupOffset (l : Fin 4) : Nat := 0x0200 + 32 * l.val

/-- The offset of a bay record. -/
def bayOffset (b : Fin 8) : Nat := 0x0400 + 64 * b.val

/-- The offset of a channel control record. -/
def controlOffset (c : Fin 6) : Nat := 0x0800 + 32 * c.val

/-- The offset of the status page. -/
def statusOffset : Nat := 0x1000

/-- Where a block read at START stands in the control area, and its length (R177, R193). Of a bay record the bytes 0x00 to 0x14
are read, as at a scan (DESIGN CHOICE, log 53). -/
def StartBlock.place : StartBlock → Nat × Nat
  | .header => (0, headerBytes)
  | .bay b => (bayOffset b, bayRecordBytes)
  | .setup l => (setupOffset l, setupBytes)

/-- The blocks a START reads, in the order it hands them over (R177): the header, bays 0 to 7, lines 0 to 3 (the order of the
bays and of the lines, DESIGN CHOICE, log 53). -/
def startBlocks : List StartBlock :=
  .header :: ((allOf 8).map .bay ++ (allOf 4).map .setup)

/-! ## Edition items (R47, R193) -/

/-- The kind of a code, none for an unknown one (R47). -/
def itemKindOf : Nat → Option ItemKind
  | 1 => some .head
  | 2 => some .select
  | 3 => some .mesh
  | 4 => some .matrix
  | 5 => some .ramp
  | 6 => some .uplift
  | 7 => some .encode
  | 8 => some .decode
  | 14 => some .pad
  | 15 => some .endItem
  | _ => none

/-- The least length of a kind, in 16-byte units (R47). -/
def ItemKind.leastUnits : ItemKind → Nat
  | .matrix => 2
  | .ramp => 3
  | .head => 1
  | .select => 1
  | .mesh => 1
  | .uplift => 1
  | .encode => 1
  | .decode => 1
  | .pad => 1
  | .endItem => 1

/-- Where the named bytes of an item of the kind end: bytes behind them are not read (R61, R193). -/
def ItemKind.namedBytes : ItemKind → Nat
  | .head => 12
  | .select => 5
  | .mesh => 16
  | .matrix => 22
  | .ramp => 38
  | .uplift => 10
  | .encode => 12
  | .decode => 12
  | .pad => 4
  | .endItem => 4

/-- The fields of a MESH item (R193). -/
def parseMesh (b : List Byte) : MeshItem where
  spacingCode := field b 4 1
  formatCode := field b 5 1
  columns := field b 6 2
  rows := field b 8 2
  count := field b 10 2 + 1
  last := field b 12 4

/-- The element size of a mesh extent: 16 bytes for FULL, 8 for any other value (R51, R54). -/
def MeshItem.elementBytes (m : MeshItem) : Nat := if m.formatCode = 1 then 16 else 8

/-- The spacing of a spacing code (R29). -/
def spacingOf (code : Nat) : Nat := 16 * 2 ^ code

/-- The geometry a MESH item gives a channel (R55, R58). -/
def MeshItem.geometry (m : MeshItem) : MeshGeometry where
  spacing := spacingOf m.spacingCode
  columns := m.columns
  rows := m.rows
  format := if m.formatCode = 1 then .full else .geometry

/-- The count and last address of an ENCODE or DECODE item (R193). -/
def parseTable (b : List Byte) : Nat × Nat := (field b 4 2 + 1, field b 8 4)

/-- The nine coefficients of a MATRIX item (R35, R193). -/
def parseMatrix (b : List Byte) : List Int := (List.range 9).map (fun i => signedField b (4 + 2 * i) 2)

/-- The 17 ramp values of a RAMP item, each held to 4096 (R36, R193). -/
def parseRamp (b : List Byte) : List Nat := (List.range 17).map (fun i => min (field b (4 + 2 * i) 2) 4096)

/-- The three values of an UPLIFT item, each held to 4095 (R37, R193). -/
def parseUplift (b : List Byte) : RGB Nat :=
  ⟨min (field b 4 2) 4095, min (field b 6 2) 4095, min (field b 8 2) 4095⟩

/-- A mesh point of an extent, w and q held to 4096 (R31, R193). -/
def parsePoint (full : Bool) (b : List Byte) : MeshPoint where
  u := signedField b 0 4
  v := signedField b 4 4
  w := if full then min (field b 8 2) 4096 else 4096
  q := if full then min (field b 10 2) 4096 else 0
  void := full && (field b 12 1).testBit 0

/-- The points of a mesh extent, in the order they lie (R30). -/
def parsePoints (m : MeshItem) (bytes : List Byte) : List MeshPoint :=
  (chunks m.elementBytes m.count bytes).map (parsePoint (decide (m.formatCode = 1)))

/-- The entries of a table extent (R193). -/
def parseEntries (count : Nat) (bytes : List Byte) : List Nat := (chunks 2 count bytes).map leNat

/-! ## Canvas pixels (R117) -/

/-- The 32-bit word of a canvas pixel: R in bits 9 to 0, G in 19 to 10, B in 29 to 20 (R117). -/
def pixelWord (p : Pixel) : Nat := p.r.toNat + 1024 * p.g.toNat + 1048576 * p.b.toNat

/-- The codes of a canvas pixel's word (R117). -/
def pixelCodes (w : Nat) : Codes := ⟨w % 1024, w / 1024 % 1024, w / 1048576 % 1024⟩

end Sys2Proof.Machine
end

