-- ==== Sys2Proof/Machine/Memory.lean ====
section
/-! DEFINITION. Frame memory: bytes, word errors, burst reads and writes with correction and merge (R171 to R173). -/

namespace Sys2Proof.Machine

/-! ## Lists of keys and values in canonical form -/

/-- The value listed for a key. -/
def lookup {α : Type} : List (Nat × α) → Nat → Option α
  | [], _ => none
  | (k, v) :: rest, a => if k = a then some v else lookup rest a

/-- The list with a key's value set, keys kept rising. -/
def insertKey {α : Type} (a : Nat) (x : α) : List (Nat × α) → List (Nat × α)
  | [] => [(a, x)]
  | (k, v) :: rest =>
      if a < k then (a, x) :: (k, v) :: rest
      else if a = k then (a, x) :: rest
      else (k, v) :: insertKey a x rest

/-- The list without a key. -/
def eraseKey {α : Type} (a : Nat) (l : List (Nat × α)) : List (Nat × α) :=
  l.filter (fun p => decide (p.1 ≠ a))

/-- Keys strictly rising. -/
def keysRise {α : Type} : List (Nat × α) → Bool
  | [] => true
  | [_] => true
  | (k, _) :: (l, y) :: rest => decide (k < l) && keysRise ((l, y) :: rest)

/-! ## Bytes and word errors -/

/-- What a byte of frame memory that nothing has written reads as (DESIGN CHOICE, log 2). -/
def unlistedByte : Byte := 0

namespace Memory

/-- The byte stored at an address. -/
def read (m : Memory) (a : Nat) : Byte := (lookup m.cells a).getD unlistedByte

/-- The error of the word that holds an address, by word number (R171). -/
def errorAt (m : Memory) (word : Nat) : Option EccError := lookup m.errors word

/-- The memory with one byte stored; an address outside frame memory stores nothing (log 32). -/
def write (m : Memory) (a : Nat) (b : Byte) : Memory :=
  if a < Config.frameMemoryBytes then
    { m with cells := if b = unlistedByte then eraseKey a m.cells else insertKey a b m.cells }
  else m

/-- The memory with several bytes stored, in order. -/
def writeAll (m : Memory) (l : List (Nat × Byte)) : Memory := l.foldl (fun m c => m.write c.1 c.2) m

/-- The memory with fresh check bits on a word (R173). -/
def clearError (m : Memory) (word : Nat) : Memory := { m with errors := eraseKey word m.errors }

/-- The canonical form: addresses strictly rising and within frame memory, no entry equal to what an
unlisted address reads as; word errors likewise. -/
def wf (m : Memory) : Bool :=
  keysRise m.cells && m.cells.all (fun c => decide (c.1 < Config.frameMemoryBytes) && decide (c.2 ≠ unlistedByte)) &&
    keysRise m.errors && m.errors.all (fun e => decide (e.1 < Config.frameMemoryBytes / 8))

/-- The memory that power-on leaves, in canonical form: the contents found, which the spec leaves
undefined (R175, R184), and the corrected-error count at 0 (R171). -/
def ofFound (found : FoundMemory) : Memory :=
  let bytes := (resetMemory.writeAll found.cells).cells
  let errors := found.errors.foldl
    (fun l e => if e.1 < Config.frameMemoryBytes / 8 then insertKey e.1 e.2 l else l) []
  ⟨bytes, errors, 0⟩

/-! ## Bursts -/

/-- The word numbers that `length` bytes from `address` touch, lowest first (R171). -/
def wordsOf (address length : Nat) : List Nat :=
  if length = 0 then []
  else (List.range ((address + length - 1) / 8 - address / 8 + 1)).map (fun i => address / 8 + i)

/-- The byte a burst read returns: zero in a word with an uncorrectable error (R172). -/
def returned (m : Memory) (a : Nat) : Byte :=
  if m.errorAt (a / 8) = some .uncorrectable then 0 else m.read a

/-- The bytes a burst read returns (R171, R172). -/
def readBytes (m : Memory) (address length : Nat) : List Byte :=
  (List.range length).map (fun i => m.returned (address + i))

/-- The number of words of a list whose single-bit error is corrected (R171). -/
def correctedIn (m : Memory) (words : List Nat) : Nat :=
  words.countP (fun w => decide (m.errorAt w = some .single))

/-- The address of the lowest failing word of a burst read (R172). -/
def failingWord (m : Memory) (words : List Nat) : Option Nat :=
  (words.find? (fun w => decide (m.errorAt w = some .uncorrectable))).map (8 * ·)

/-- The memory with the corrected-error count increased, modulo 2^32 (R171). -/
def countCorrected (m : Memory) (n : Nat) : Memory := { m with corrected := m.corrected + BitVec.ofNat 32 n }

/-- The word numbers a write touches, each once, in the order of the bytes given. -/
def touched (l : List (Nat × Byte)) : List Nat := (l.map (fun c => c.1 / 8)).dedup

/-- Whether a write covers all eight bytes of a word (R173). -/
def coversWord (l : List (Nat × Byte)) (word : Nat) : Bool :=
  (List.range 8).all (fun i => l.any (fun c => decide (c.1 = 8 * word + i)))

/-- What the merge of a part-word write does to a word before its bytes are replaced: kept, corrected and
counted, or set to zeros (R173). -/
def merge (m : Memory) (word : Nat) : Memory :=
  match m.errorAt word with
  | none => m
  | some .single => m.countCorrected 1
  | some .uncorrectable => m.writeAll ((List.range 8).map (fun i => (8 * word + i, (0 : Byte))))

/-- The memory ready for a write of the bytes given: part-covered words merged, all touched words with fresh
check bits (R173). -/
def prepare (m : Memory) (l : List (Nat × Byte)) : Memory :=
  (touched l).foldl (fun m w => (if coversWord l w then m else m.merge w).clearError w) m

/-- The memory after a write burst (R173). -/
def writeBurst (m : Memory) (l : List (Nat × Byte)) : Memory := (m.prepare l).writeAll l

/-- The addresses of the words whose merge met an uncorrectable error, one MEMORY fault each (R173, log 23). -/
def mergeFaults (m : Memory) (l : List (Nat × Byte)) : List Nat :=
  ((touched l).filter (fun w => !coversWord l w && decide (m.errorAt w = some .uncorrectable))).map (8 * ·)

end Memory

/-- Bytes paired with the addresses they go to. -/
def placed (address : Nat) : List Byte → List (Nat × Byte)
  | [] => []
  | b :: rest => (address, b) :: placed (address + 1) rest

/-- How many of `left` bytes from `address` lie in the 256-byte block of the first (R168). -/
def blockPiece (address left : Nat) : Nat := min left (Config.burstBlock - address % Config.burstBlock)

/-- The size of a burst whose length the spec leaves to the requester: at least 1, at most what is left and
what R168 allows (log 6). -/
def burstSize (wanted address left : Nat) : Nat := max 1 (min wanted (blockPiece address left))

end Sys2Proof.Machine
end

