-- ==== Sys2Proof/Machine/Flags.lean ====
section
/-! DEFINITION. The flags the block reports by: notices and the interrupt line (R186, R187), the fault record (R190 to
R192), and the memory accesses that raise faults (R171 to R173). -/

namespace Sys2Proof.Machine

/-! ## Notices (R186, R187) -/

/-- The bit of a notice group as a register value. -/
def NoticeGroup.mask (g : NoticeGroup) : Word := BitVec.ofNat 32 (2 ^ g.bit)

/-- A notice of a group raised: its bit is set, and a bit that is set stays set (R186). -/
def raiseNotice (g : NoticeGroup) (s : State) : State :=
  s.setLink { s.link with notice := s.link.notice ||| g.mask }

/-- A notice raised where `raise` holds. -/
def raiseIf (raise : Bool) (g : NoticeGroup) (s : State) : State :=
  if raise then raiseNotice g s else s

/-- Whether a group's bit is set in NOTICE. -/
def State.noticed (s : State) (g : NoticeGroup) : Bool := s.link.notice.getLsbD g.bit

/-- The interrupt line: asserted while NOTICE and NOTICE_ENABLE have a bit in common (R187). -/
def State.interruptLine (s : State) : Bool := decide (s.link.notice &&& s.link.noticeEnable ≠ 0)

/-! ## The fault record (R190 to R192) -/

namespace FaultRecord

/-- The sequence number after `n`: after 65,535 comes 1 (R190). -/
def nextSequence (n : BitVec 16) : BitVec 16 := if n = 65535 then 1 else n + 1

/-- The record with the seen mark of a kind set (R191). -/
def see (f : FaultRecord) : FaultKind → FaultRecord
  | .table => { f with seenTable := true }
  | .memory => { f with seenMemory := true }
  | .link => { f with seenLink := true }

/-- An empty record filled by a fault (R190). -/
def fill (f : FaultRecord) (kind : FaultKind) (detail : Word) (frame : BitVec 64) : FaultRecord :=
  { occupied := true
    sequence := nextSequence f.sequence
    kind := some kind
    detail := detail
    frame := frame
    further := 0
    seenTable := false
    seenMemory := false
    seenLink := false : FaultRecord }.see kind

/-- Whether a fault of the kind is of a strictly higher class than the held one (R190, R191). -/
def outranks (f : FaultRecord) (kind : FaultKind) : Bool :=
  match f.kind with
  | none => true
  | some held => decide (kind.code < held.code)

/-- An occupied record joined by a fault (R191). -/
def join (f : FaultRecord) (kind : FaultKind) (detail : Word) (frame : BitVec 64) : FaultRecord :=
  let counted := { f with further := min (f.further + 1) Config.furtherFaultLimit }
  let held := if f.outranks kind then { counted with kind := some kind, detail := detail, frame := frame } else counted
  held.see kind

/-- The record after a fault (R190, R191). -/
def take (f : FaultRecord) (kind : FaultKind) (detail : Word) (frame : BitVec 64) : FaultRecord :=
  if f.occupied then f.join kind detail frame else f.fill kind detail frame

/-- Whether taking a fault raises a FAULT notice: it fills the record or displaces the held fault (R190, R191). -/
def noticesOn (f : FaultRecord) (kind : FaultKind) : Bool := !f.occupied || f.outranks kind

/-- The record emptied; the sequence number is kept (R192). -/
def empty (f : FaultRecord) : FaultRecord := { emptyFault with sequence := f.sequence }

/-- The record after the host's fault_ack is looked at: emptied when it is occupied and the value is its
sequence number, which is never 0 (R192). -/
def acknowledge (f : FaultRecord) (ack : Nat) : FaultRecord :=
  if f.occupied && decide (ack ≠ 0) && decide (ack = f.sequence.toNat) then f.empty else f

end FaultRecord

/-- A fault taken by the Notice Unit, with the present output frame number (R190, R191). -/
def takeFault (kind : FaultKind) (detail : Word) (s : State) : State :=
  raiseIf (s.status.fault.noticesOn kind) .fault
    (s.setStatus { s.status with fault := s.status.fault.take kind detail s.timing.frame })

/-! ## Frame memory accesses by the part -/

/-- The state after a burst read: corrected words counted, one MEMORY fault for a burst with uncorrectable
words, its detail the lowest failing word (R171, R172). -/
def afterRead (address length : Nat) (s : State) : State :=
  let words := Memory.wordsOf address length
  let counted := s.setMemory (s.memory.countCorrected (s.memory.correctedIn words))
  match s.memory.failingWord words with
  | none => counted
  | some a => takeFault .memory (BitVec.ofNat 32 a) counted

/-- Whether a burst read met an uncorrectable error (R172). -/
def readFails (address length : Nat) (s : State) : Bool :=
  (s.memory.failingWord (Memory.wordsOf address length)).isSome

/-- The state after a write burst: the bytes stored, one MEMORY fault for each word whose merge met an
uncorrectable error (R173). -/
def afterWrite (cells : List (Nat × Byte)) (s : State) : State :=
  (s.memory.mergeFaults cells).foldl (fun s a => takeFault .memory (BitVec.ofNat 32 a) s)
    (s.setMemory (s.memory.writeBurst cells))

end Sys2Proof.Machine
end

