-- ==== Sys2Proof/Machine/Ops.lean ====
section
/-! DEFINITION. Operations shared by the blocks: the profile as latched, the status writer's requests, reads of the
control area, the status snapshot, the register window as it reads. -/

namespace Sys2Proof.Machine

/-! ## The profile as latched (R148) -/

/-- Whether a channel is enabled in the latched profile. -/
def Layout.isEnabled (l : Layout) (c : Fin 6) : Bool := l.enabled.getLsbD c.val

/-- The port of an enabled channel, pm[c] (R148). -/
def Layout.portOf (l : Layout) (c : Fin 6) : Option (Fin 6) :=
  if l.isEnabled c then
    if h : l.portMap.get c < 6 then some ⟨l.portMap.get c, h⟩ else none
  else none

/-- The enabled channel that is sent on a port, if one is (R148). -/
def Layout.channelOf (l : Layout) (p : Fin 6) : Option (Fin 6) :=
  lowest 6 (fun c => decide (l.portOf c = some p))

/-- A used port is the port of an enabled channel (R148). -/
def Layout.used (l : Layout) (p : Fin 6) : Bool := (l.channelOf p).isSome

/-- The pixels of a raster (R1). -/
def Layout.rasterPixels (l : Layout) : Nat := l.wr * l.hr

/-! ## Requests to the status writer (R168) -/

/-- The fields of a page or record as bytes with their addresses; each field is (offset, size, value) (R193). -/
def fieldCells (base : Nat) (fields : List (Nat × Nat × Nat)) : List (Nat × Byte) :=
  fields.flatMap (fun f => placed (base + f.1) (leBytes f.2.1 f.2.2))

/-- Bytes in the order they are written, cut into bursts: runs of consecutive addresses within one 256-byte block
(R168). -/
def burstsOf : List (Nat × Byte) → List (List (Nat × Byte))
  | [] => []
  | c :: rest =>
      match burstsOf rest with
      | (d :: run) :: runs =>
          if d.1 = c.1 + 1 ∧ d.1 % Config.burstBlock ≠ 0 then (c :: d :: run) :: runs else [c] :: (d :: run) :: runs
      | runs => [c] :: runs

/-- The requests of a write: one for each of its bursts, in order (R168). -/
def writeRequests (cells : List (Nat × Byte)) : List StatusRequest := (burstsOf cells).map .write

/-- Requests handed to the status writer in order, behind those it holds (R168). -/
def handRequests (l : List StatusRequest) (s : State) : State :=
  s.setStatus { s.status with queue := s.status.queue ++ l }

/-- A write of fields at an offset of the validated area handed to the status writer, in its bursts; with no validated
area nothing is written (R188, log 15). -/
def handFields (offset : Nat) (fields : List (Nat × Nat × Nat)) (s : State) : State :=
  match s.device.validatedArea with
  | none => s
  | some area => handRequests (writeRequests (fieldCells (area + offset) fields)) s

/-! ## Reads of the control area at an output frame start (R168) -/

/-- The base of the control area that reads use. -/
def State.area (s : State) : Nat := s.device.validatedArea.getD 0

/-- The bytes a control area read returns (R168, R172). -/
def State.controlBytes (s : State) (offset length : Nat) : List Byte :=
  s.memory.readBytes (s.area + offset) length

/-- The state after a control area read: corrections counted, a MEMORY fault taken (R171, R172, log 17). -/
def afterControlRead (offset length : Nat) (s : State) : State := afterRead (s.area + offset) length s

/-! ## What the host reads of the state -/

/-- The number of the READING slot, if there is one (R130). -/
def Capture.readingSlot (c : Capture) : Option (Fin 3) :=
  lowest 3 (fun n => decide ((c.slots.get n).state = .reading))

/-- The sequence number of the READING slot, 0 when there is none (R130). -/
def Capture.readingSequence (c : Capture) : Word :=
  match c.readingSlot with
  | none => 0
  | some n => (c.slots.get n).sequence

/-- The live bay number as a snapshot shows it, 15 for none (R93). -/
def liveNumber : Option (Fin 8) → Nat
  | none => 15
  | some b => b.val

/-- A Bool as a number. -/
def bit (b : Bool) : Nat := if b then 1 else 0

/-- The channel status record of a channel (R164): offsets from the record's own start. -/
def channelStatus (s : State) (c : Fin 6) : List (Nat × Nat × Nat) :=
  let ch := s.channels.get c
  let base := 0x200 + 16 * c.val
  match s.layout.portOf c with
  | some p =>
      let port := s.ports.get p
      [(base, 1, p.val), (base + 1, 1, port.state.code), (base + 2, 1, port.failures),
       (base + 3, 1, bit port.presence), (base + 4, 1, ch.mode.code), (base + 5, 1, bit ch.quarantined),
       (base + 8, 4, ch.lateLast), (base + 12, 4, ch.clipLast)]
  | none =>
      [(base, 1, 15), (base + 1, 1, LinkState.off.code), (base + 2, 1, 0), (base + 3, 1, 0),
       (base + 4, 1, Mode.mute.code), (base + 5, 1, 0), (base + 8, 4, 0), (base + 12, 4, 0)]

/-- The levels of a trigger line in a snapshot (R114). -/
def lineStatus (s : State) (l : Fin 4) : List (Nat × Nat × Nat) :=
  let line := s.triggers.lines.get l
  let base := 0x130 + 4 * l.val
  [(base, 1, bit line.filtered), (base + 1, 1, bit line.combined), (base + 2, 1, bit line.delivered),
   (base + 3, 1, bit line.holdOffActive)]

/-- The fault record in a snapshot (R190, R193). -/
def faultStatus (f : FaultRecord) : List (Nat × Nat × Nat) :=
  [(0x140, 1, bit f.occupied), (0x141, 1, match f.kind with | none => 0 | some k => k.code),
   (0x142, 1, bit f.seenTable + 2 * bit f.seenMemory + 4 * bit f.seenLink),
   (0x144, 2, f.sequence.toNat), (0x146, 2, f.further), (0x148, 4, f.detail.toNat), (0x150, 8, f.frame.toNat)]

/-- The device, timing, source, trigger and fault fields of the status page (R193). -/
def bodyFirst (s : State) : List (Nat × Nat × Nat) :=
  [(0x100, 1, s.device.state.code), (0x101, 1, s.timing.state.code), (0x102, 1, s.device.refusal.code),
   (0x104, 4, s.timing.measured), (0x108, 1, liveNumber s.bays.liveBay), (0x10C, 4, s.bays.liveTag.toNat),
   (0x110, 1, match s.capture.readingSlot with | none => 15 | some n => n.val),
   (0x111, 1, s.capture.state.code), (0x114, 4, s.capture.readingSequence.toNat),
   (0x118, 4, s.capture.dropped.toNat), (0x11C, 4, s.capture.repeated.toNat),
   (0x120, 4, s.capture.discardedPartial.toNat), (0x124, 4, s.capture.overflows.toNat),
   (0x128, 4, s.bays.unserved.toNat), (0x12C, 4, s.memory.corrected.toNat)] ++
    (allOf 4).flatMap (lineStatus s) ++ faultStatus s.status.fault

/-- The channel status records of the status page (R164, R193). -/
def bodySecond (s : State) : List (Nat × Nat × Nat) := (allOf 6).flatMap (channelStatus s)

/-- The snapshot_begin or snapshot_end record at an offset of the page (R189). -/
def snapshotMark (s : State) (offset : Nat) : List (Nat × Nat × Nat) :=
  [(offset, 8, s.timing.frame.toNat), (offset + 8, 4, s.status.snapshotCount.toNat)]

/-- The requests of a snapshot on a page: begin, the body in its bursts, end (R189, log 16). -/
def snapshotRequests (page : Nat) (s : State) : List StatusRequest :=
  .write (fieldCells page (snapshotMark s 0)) ::
    (writeRequests (fieldCells page (bodyFirst s ++ bodySecond s)) ++ [.write (fieldCells page (snapshotMark s 0x300))])

/-- The snapshot count one higher (R189). -/
def countSnapshot (s : State) : State :=
  s.setStatus { s.status with snapshotCount := s.status.snapshotCount + 1 }

/-- A snapshot: the count goes up by 1, and begin, body and end are handed over in this order with the contents
as they stand; none while the validated area is none (R188, R189). -/
def snapshot (s : State) : State :=
  match s.device.validatedArea with
  | none => s
  | some area => handRequests (snapshotRequests (area + statusOffset) (countSnapshot s)) (countSnapshot s)

/-! ## The register window as it reads (10.2, R185) -/

/-- IDENT (10.2). -/
def identValue : Word := 0x003A0601#32

/-- RUN_STATUS as it stands (10.2, R185). -/
def State.runStatus (s : State) : Word :=
  BitVec.ofNat 32
    (s.device.state.code + 16 * s.timing.state.code +
      256 * (match s.bays.liveBay with | none => 0 | some b => b.val + 1) +
      65536 * (s.timing.frame.toNat % 65536))

/-- The registers of the window, by offset; RUN_CONTROL reads 0 (10.2). -/
def State.register (s : State) : Nat → Word
  | 0x00 => identValue
  | 0x04 => s.link.areaBase
  | 0x0C => s.runStatus
  | 0x10 => s.link.notice
  | 0x14 => s.link.noticeEnable
  | _ => 0

/-- The bytes that a register read of fewer than four bytes returns: the addressed ones (R185). -/
def State.registerBytes (s : State) (offset size : Nat) : List Byte :=
  ((leBytes 4 (s.register (offset / 4 * 4)).toNat).drop (offset % 4)).take size

/-! ## Changing one of a row -/

/-- The state with a bay's shadow changed. -/
def modifyBay (b : Fin 8) (f : Bay → Bay) (s : State) : State :=
  s.setBays { s.bays with bays := s.bays.bays.modify b f }

/-- The state with a channel changed. -/
def modifyChannel (c : Fin 6) (f : Channel → Channel) (s : State) : State :=
  s.setChannels (s.channels.modify c f)

/-- The state with a port changed. -/
def modifyPort (p : Fin 6) (f : Port → Port) (s : State) : State := s.setPorts (s.ports.modify p f)

/-- The state with a trigger line changed. -/
def modifyLine (l : Fin 4) (f : Line → Line) (s : State) : State :=
  s.setTriggers { s.triggers with lines := s.triggers.lines.modify l f }

/-- Whether the device is RUNNING or STOPPING, when bays, channels and ports raise their notices
(R75, R165). -/
def State.working (s : State) : Bool :=
  decide (s.device.state = .running) || decide (s.device.state = .stopping)

end Sys2Proof.Machine
end

