-- ==== Sys2Proof/Machine/Editions.lean ====
section
/-! DEFINITION. The walk over an edition: the checks of the Edition Checker, and the comparisons and the copy of the
Edition Loader (03). -/

namespace Sys2Proof.Machine

/-- The channels of a mask that are enabled in the profile (R50). -/
def Layout.scopeOf (l : Layout) (mask : Nat) : BitVec 6 := BitVec.ofNat 6 mask &&& l.enabled

/-- The channels of a set, lowest first. -/
def members (set : BitVec 6) : List (Fin 6) := (allOf 6).filter (fun c => set.getLsbD c.val)

/-- The first address of an extent: the last address less (count − 1) elements, which may fall below 0 (R54). -/
def extentFirst (last count element : Nat) : Int := (last : Int) - ((count : Int) - 1) * element

/-- The ALIGN test of an extent (R54). -/
def extentAligned (last count element : Nat) : Bool := decide (extentFirst last count element % 8 = 0)

/-- The BOUNDS test of an extent (R54). -/
def extentInside (l : Layout) (last count element : Nat) : Bool :=
  decide ((l.arenaLow : Int) ≤ extentFirst last count element ∧ last + element ≤ l.arenaHigh)

/-- ceil(a/b) (00_scope.md). -/
def ceilDiv (a b : Nat) : Nat := (a + b - 1) / b

/-- Columns that a mesh of a spacing must have (R29). -/
def meshColumns (l : Layout) (spacing : Nat) : Nat := ceilDiv l.wr spacing + 1

/-- Rows that a mesh of a spacing must have (R29). -/
def meshRows (l : Layout) (spacing : Nat) : Nat := ceilDiv l.hr spacing + 1

/-- The field legality of a MESH item (R55). -/
def meshLegality (l : Layout) (m : MeshItem) : Option RejectReason :=
  let s := spacingOf m.spacingCode
  if 3 < m.spacingCode ∨ 1 < m.formatCode then some .spacing
  else if m.columns ≠ meshColumns l s ∨ m.rows ≠ meshRows l s ∨ m.count ≠ m.columns * m.rows then some .coverage
  else if Config.meshPoints < m.columns * m.rows then some .meshSize
  else none

/-- The first of several tests that fails. -/
def firstFailure : List (Bool × RejectReason) → Option RejectReason
  | [] => none
  | (true, r) :: _ => some r
  | (false, _) :: rest => firstFailure rest

/-- Alignment, then bounds, of an extent (R59 steps 6 and 7). -/
def extentFailure (l : Layout) (last count element : Nat) : Option RejectReason :=
  firstFailure [(!extentAligned last count element, .align), (!extentInside l last count element, .bounds)]

/-- One failure, else another. -/
def orElse : Option RejectReason → Option RejectReason → Option RejectReason
  | some r, _ => some r
  | none, o => o

/-! ## The contents of a mesh (R57) -/

/-- Whether u and v lie in range (R31). -/
def MeshPoint.inRange (p : MeshPoint) : Bool :=
  decide (-524288 ≤ p.u ∧ p.u ≤ 524287 ∧ -524288 ≤ p.v ∧ p.v ≤ 524287)

/-- The span of v over four corners (R32). -/
def cornerSpan (a b c d : MeshPoint) : Int :=
  max (max a.v b.v) (max c.v d.v) - min (min a.v b.v) (min c.v d.v)

/-- Whether the cell (i, j) of a mesh of `columns` columns spans too much: four corners without VOID and a span
above the limit (R32). -/
def cellTooTall (points : List MeshPoint) (columns i j : Nat) : Bool :=
  let at' (c r : Nat) : MeshPoint := points.getD (r * columns + c) blankPoint
  let a := at' i j
  let b := at' (i + 1) j
  let c := at' i (j + 1)
  let d := at' (i + 1) (j + 1)
  !(a.void || b.void || c.void || d.void) && decide (Config.spanLimit < cornerSpan a b c d)

/-- Whether some cell of the mesh spans too much (R32). -/
def meshTooTall (points : List MeshPoint) (columns rows : Nat) : Bool :=
  (List.range (rows - 1)).any (fun j => (List.range (columns - 1)).any (fun i => cellTooTall points columns i j))

/-- The contents step of a mesh: RANGE before SPAN (R57). -/
def meshContents (points : List MeshPoint) (columns rows : Nat) : Option RejectReason :=
  firstFailure [(!points.all MeshPoint.inRange, .range), (meshTooTall points columns rows, .span)]

/-! ## Starting a walk (R46, R58, R65) -/

/-- No mark taken (R52). -/
def noMarks : TakenMarks := ⟨0, 0, 0, 0, 0, false⟩

/-- The empty check summary (R58). -/
def emptySummary : CheckSummary := ⟨0, 0, false, Arr.replicate 6 none⟩

/-- The reason of a failure as the walk reports it: the Loader reports every failure but MEMORY as CHANGED (R67). -/
def Walk.reason (w : Walk) (r : RejectReason) : RejectReason :=
  match w.plan, r with
  | none, r => r
  | some _, .memory => .memory
  | some _, _ => .changed

/-- The walk ended by a failure at an item index; no further read is made (R59, R67). -/
def Walk.fail (w : Walk) (r : RejectReason) (index : Nat) : Walk :=
  { w with read := none, result := some (.rejected (w.reason r) index) }

/-- The walk with the header of its item being read: 4 bytes at the item's start (R47, log 13). -/
def Walk.readHeader (w : Walk) : Walk :=
  { w with phase := .header, read := some ⟨w.address + w.offset, 4, []⟩ }

/-- The tests of the edition as a whole, in order (R46). -/
def editionFailure (l : Layout) (address length : Nat) : Option RejectReason :=
  firstFailure
    [(decide (¬ (32 ≤ length ∧ length ≤ 4096 ∧ length % 16 = 0)), .length),
     (decide (address % 16 ≠ 0), .align),
     (decide (¬ (l.arenaLow ≤ address ∧ address + length ≤ l.arenaHigh)), .bounds)]

/-- A walk at its start: item 0 at offset 0, no scope, every mark clear, the tests of R46 made before any read
(R46, R58). -/
def startWalk (l : Layout) (b : Fin 8) (address length : Nat) (plan : Option LoadPlan) : Walk :=
  let w : Walk :=
    { bay := b
      address := address
      length := length
      index := 0
      offset := 0
      units := 0
      item := []
      scope := none
      marks := noMarks
      poolSum := 0
      summary := emptySummary
      phase := .header
      read := none
      result := none
      plan := plan }
  match editionFailure l address length with
  | some r => w.fail r 0
  | none => w.readHeader

/-- The points a channel's recorded mesh takes in the pool (R33). -/
def meshSizeOf : Option MeshGeometry → Nat
  | none => 0
  | some g => g.columns * g.rows

/-- The pool base of a channel: the shares of the channels before it, in channel order (R33, R65). -/
def poolBase (summary : CheckSummary) (c : Fin 6) : Nat :=
  (((allOf 6).filter (fun d => decide (d < c))).map (fun d => meshSizeOf (summary.meshes.get d))).sum

/-- The plan of a load from the bay's check summary (R65). -/
def planOf (summary : CheckSummary) : LoadPlan := ⟨summary, Arr.build (poolBase summary)⟩

/-! ## The items (R47 to R60) -/

/-- The walk moved on to the item after the present one; with none left before the declared length it ends with
LENGTH at the number of items walked, at most 255 (R49). -/
def Walk.advance (w : Walk) : Walk :=
  let next := w.offset + 16 * w.units
  if w.length ≤ next then w.fail .length (min (w.index + 1) 255)
  else { w with index := w.index + 1, offset := next }.readHeader

/-- The structure tests of an item of a kind code and a length in units, in order; the kind when they pass (R47). -/
def structureOf (w : Walk) (kindCode units : Nat) : RejectReason ⊕ ItemKind :=
  if units = 0 ∨ w.length < w.offset + 16 * units then .inl .length
  else
    match itemKindOf kindCode with
    | none => .inl .kind
    | some k => if units < k.leastUnits then .inl .length else .inr k

/-- The marks of a kind of channel item (R52). -/
def TakenMarks.of (m : TakenMarks) : ItemKind → BitVec 6
  | .mesh => m.mesh
  | .matrix => m.matrix
  | .ramp => m.ramp
  | .uplift => m.uplift
  | .encode => m.encode
  | .head => 0
  | .select => 0
  | .decode => 0
  | .pad => 0
  | .endItem => 0

/-- The marks with a kind's mark set for the channels of a scope (R52). -/
def TakenMarks.take (m : TakenMarks) (scope : BitVec 6) : ItemKind → TakenMarks
  | .mesh => { m with mesh := m.mesh ||| scope }
  | .matrix => { m with matrix := m.matrix ||| scope }
  | .ramp => { m with ramp := m.ramp ||| scope }
  | .uplift => { m with uplift := m.uplift ||| scope }
  | .encode => { m with encode := m.encode ||| scope }
  | .decode => { m with decode := true }
  | .head => m
  | .select => m
  | .pad => m
  | .endItem => m

/-- What an item that passes steps 1 to 7 asks of the walk. -/
inductive ItemAction where
  | headTag (tag : Word)
  | openScope (scope : BitVec 6)
  | takeMesh (scope : BitVec 6) (item : MeshItem)
  | takeValues (scope : BitVec 6) (kind : ItemKind)
  | takeEncode (scope : BitVec 6) (count last : Nat)
  | takeDecode (count last : Nat)
  | nothing
  | finish
deriving DecidableEq, Repr

/-- The checks of a channel item, steps 3 to 7 (R50, R51, R52, R55, R56, R59). -/
def judgeChannelItem (l : Layout) (w : Walk) (k : ItemKind) (item : List Byte) : RejectReason ⊕ ItemAction :=
  match w.scope with
  | none => .inl .select
  | some scope =>
      let mesh := parseMesh item
      let table := parseTable item
      let extent : Option RejectReason :=
        match k with
        | .mesh => extentFailure l mesh.last mesh.count mesh.elementBytes
        | .encode => extentFailure l table.2 table.1 2
        | _ => none
      if scope = 0 then
        match extent with
        | some r => .inl r
        | none => .inr .nothing
      else
        let duplicate := firstFailure [(decide (w.marks.of k &&& scope ≠ 0), .duplicate)]
        let legality : Option RejectReason :=
          match k with
          | .mesh => meshLegality l mesh
          | .encode => firstFailure [(decide (table.1 ≠ 1025), .tableSize)]
          | _ => none
        match orElse duplicate (orElse legality extent) with
        | some r => .inl r
        | none =>
            match k with
            | .mesh => .inr (.takeMesh scope mesh)
            | .encode => .inr (.takeEncode scope table.1 table.2)
            | _ => .inr (.takeValues scope k)

/-- The checks of a DECODE item, steps 4 to 7 (R52, R53, R56). -/
def judgeDecode (l : Layout) (w : Walk) (item : List Byte) : RejectReason ⊕ ItemAction :=
  let table := parseTable item
  match orElse (firstFailure [(w.marks.decode, .duplicate), (decide (table.1 ≠ 1024), .tableSize)])
      (extentFailure l table.2 table.1 2) with
  | some r => .inl r
  | none => .inr (.takeDecode table.1 table.2)

/-- The checks of an item after its structure, in the order of R59 (steps 2 to 7); `item` holds the item's bytes as read. -/
def judgeItem (l : Layout) (w : Walk) (k : ItemKind) (item : List Byte) : RejectReason ⊕ ItemAction :=
  if decide (w.index = 0) != decide (k = .head) then .inl .header
  else
    match k with
    | .head =>
        if field item 8 2 ≠ l.wr ∨ field item 10 2 ≠ l.hr then .inl .raster
        else .inr (.headTag (BitVec.ofNat 32 (field item 4 4)))
    | .select =>
        let mask := field item 4 1 % 64
        if mask = 0 then .inl .select else .inr (.openScope (l.scopeOf mask))
    | .mesh => judgeChannelItem l w .mesh item
    | .matrix => judgeChannelItem l w .matrix item
    | .ramp => judgeChannelItem l w .ramp item
    | .uplift => judgeChannelItem l w .uplift item
    | .encode => judgeChannelItem l w .encode item
    | .decode => judgeDecode l w item
    | .pad => .inr .nothing
    | .endItem => .inr .finish

/-! ## What the Loader compares (R67) -/

/-- Whether a MESH item differs, for some channel of the scope, from what the summary records (R67). -/
def meshChanged (recorded : CheckSummary) (scope : BitVec 6) (m : MeshItem) : Bool :=
  (members scope).any (fun c => decide (recorded.meshes.get c ≠ some m.geometry))

/-- Whether, at END, the walk differs from what the summary records (R67). -/
def endChanged (recorded : CheckSummary) (w : Walk) : Bool :=
  decide (w.index ≠ recorded.endIndex) ||
  (allOf 6).any (fun c => (recorded.meshes.get c).isSome && !w.marks.mesh.getLsbD c.val) ||
  decide (w.marks.decode ≠ recorded.decodeTaken)

/-- Whether a comparison that only a load makes fails. -/
def Walk.differs (w : Walk) (test : CheckSummary → Bool) : Bool :=
  match w.plan with
  | none => false
  | some p => test p.recorded

/-! ## Acting on an item -/

/-- The writes a load makes of an item's values into the staging bank (R66). -/
def valueWrites (scope : BitVec 6) (k : ItemKind) (item : List Byte) : List BankWrite :=
  match k with
  | .matrix => (members scope).map (fun c => .matrix c (parseMatrix item))
  | .ramp => (members scope).map (fun c => .ramp c (parseRamp item))
  | .uplift => (members scope).map (fun c => .uplift c (parseUplift item))
  | _ => []

/-- The writes of a walk: a check makes none (R61, R66). -/
def Walk.writes (w : Walk) (l : List BankWrite) : List BankWrite :=
  match w.plan with
  | none => []
  | some _ => l

/-- The walk with an extent being read, from its first address upward (R61, R66; the order, DESIGN CHOICE, log 51). -/
def Walk.readExtent (w : Walk) (phase : WalkPhase) (last count element : Nat) : Walk :=
  { w with phase := phase, read := some ⟨(extentFirst last count element).toNat, count * element, []⟩ }

/-- The index of END recorded in the check summary (R59). -/
def Walk.recordEnd (w : Walk) : Walk := { w with summary := { w.summary with endIndex := w.index } }

/-- The completion checks at END and the load's comparisons there (R60, R67). -/
def Walk.complete (l : Layout) (w : Walk) : Walk × List BankWrite :=
  if (allOf 6).any (fun c => l.isEnabled c && !w.marks.mesh.getLsbD c.val) then (w.fail .missingMesh w.index, [])
  else if Config.poolEntries < w.poolSum then (w.fail .pool w.index, [])
  else if w.differs (fun r => endChanged r w) then (w.fail .changed w.index, [])
  else ({ w with read := none, result := some .passed }, w.writes [.finish w.marks])

/-- END: its index is recorded, and the completion checks are made (R59, R60). -/
def Walk.finish (l : Layout) (w : Walk) : Walk × List BankWrite := w.recordEnd.complete l

/-- A DECODE taken: its mark is set and it is recorded in the check summary (R59). -/
def Walk.takeDecode (w : Walk) : Walk :=
  { w with marks := w.marks.take 0 .decode, summary := { w.summary with decodeTaken := true } }

/-- An item that has passed steps 1 to 7 takes effect, or has its extent read (R59, R66). -/
def Walk.act (l : Layout) (w : Walk) (item : List Byte) : ItemAction → Walk × List BankWrite
  | .headTag tag =>
      if w.differs (fun r => decide (tag ≠ r.tag)) then (w.fail .changed w.index, [])
      else ({ w with summary := { w.summary with tag := tag } }.advance, [])
  | .openScope scope => ({ w with scope := some scope }.advance, [])
  | .takeMesh scope m =>
      if w.differs (fun r => meshChanged r scope m) then (w.fail .changed w.index, [])
      else (w.readExtent (.points m) m.last m.count m.elementBytes, [])
  | .takeValues scope k =>
      ({ w with marks := w.marks.take scope k }.advance, w.writes (valueWrites scope k item))
  | .takeEncode scope count last =>
      match w.plan with
      | none => ({ w with marks := w.marks.take scope .encode }.advance, [])
      | some _ => (w.readExtent .encodeTable last count 2, [])
  | .takeDecode count last =>
      match w.plan with
      | none => (w.takeDecode.advance, [])
      | some _ => (w.readExtent .decodeTable last count 2, [])
  | .nothing => (w.advance, [])
  | .finish => w.finish l

/-- The checks of an item, steps 1 to 7 of R59 in their order; `item` holds the item's bytes as read. -/
def judgeWhole (l : Layout) (w : Walk) (item : List Byte) : RejectReason ⊕ ItemAction :=
  match structureOf w (field item 0 1) (field item 2 2) with
  | .inl r => .inl r
  | .inr k => judgeItem l w k item

/-- An item whose bytes are read: its checks, then its action (R59). -/
def Walk.onItem (l : Layout) (w : Walk) (item : List Byte) : Walk × List BankWrite :=
  match judgeWhole l w item with
  | .inl r => (w.fail r w.index, [])
  | .inr a => { w with units := field item 2 2 }.act l item a

/-- How many bytes of contents are read of an item of a kind code, after its 4-byte header: up to the last byte that its
layout names, within the declared edition; none for PAD, END and unknown kinds (R61, R193; log 13, log 43). -/
def Walk.contentsBytes (w : Walk) (kindCode : Nat) : Nat :=
  match itemKindOf kindCode with
  | none => 0
  | some k => min k.namedBytes (w.length - w.offset) - 4

/-- A header that has been read: the contents are read before the item's checks are made (R59, R61). -/
def Walk.onHeader (l : Layout) (w : Walk) (bytes : List Byte) : Walk × List BankWrite :=
  let n := w.contentsBytes (field bytes 0 1)
  if 0 < n then
    ({ w with phase := .contents, item := bytes, read := some ⟨w.address + w.offset + 4, n, []⟩ }, [])
  else w.onItem l bytes

/-- The points of a mesh that have been read: the contents step, then the mesh is taken (R57, R55, R66). -/
def Walk.onPoints (w : Walk) (m : MeshItem) (bytes : List Byte) : Walk × List BankWrite :=
  let points := parsePoints m bytes
  let scope := w.scope.getD 0
  match meshContents points m.columns m.rows with
  | some r => (w.fail r w.index, [])
  | none =>
      let taken := { w with
        marks := w.marks.take scope .mesh
        poolSum := w.poolSum + m.columns * m.rows * (members scope).length
        summary := { w.summary with
          meshes := Arr.build (fun c => if scope.getLsbD c.val then some m.geometry else w.summary.meshes.get c) } }
      let writes :=
        match w.plan with
        | none => []
        | some p => (members scope).map (fun c => BankWrite.mesh c m.geometry (p.bases.get c) points)
      (taken.advance, writes)

/-- The bytes of a completed read taken by the walk, by what the read was for. The Loader writes a mesh or a table when its
whole extent is read, so a load that ends before leaves none of it in the bank (R40, R41; DESIGN CHOICE, log 14). -/
def Walk.consume (l : Layout) (w : Walk) (bytes : List Byte) : Walk × List BankWrite :=
  match w.phase with
  | .header => w.onHeader l bytes
  | .contents => w.onItem l (w.item ++ bytes)
  | .points m => w.onPoints m bytes
  | .encodeTable =>
      let scope := w.scope.getD 0
      let values := (parseEntries 1025 bytes).map (fun e => min e 1023)
      ({ w with marks := w.marks.take scope .encode }.advance, w.writes ((members scope).map (fun c => .encode c values)))
  | .decodeTable =>
      (w.takeDecode.advance, w.writes [.decode (parseEntries 1024 bytes)])

/-- A burst of the walk's read returned: with an uncorrectable error the walk ends with MEMORY (R62, R68); a read
that is complete is taken, one that is not goes on. -/
def Walk.onBurst (l : Layout) (w : Walk) (bytes : List Byte) (failed : Bool) : Walk × List BankWrite :=
  match w.read with
  | none => (w, [])
  | some job =>
      if failed then (w.fail .memory w.index, [])
      else if job.left ≤ bytes.length then { w with read := none }.consume l (job.got ++ bytes)
      else
        ({ w with read := some ⟨job.address + bytes.length, job.left - bytes.length, job.got ++ bytes⟩ }, [])

/-! ## The edition reader (R70) -/

/-- Whether a walk has a read waiting. -/
def reading : Option Walk → Bool
  | none => false
  | some w => w.read.isSome

/-- The read presented to the Fetch Arbiter: one presented stays until it is granted or withdrawn; else the Loader's
is first, then the Checker's (R70). -/
def EditionReader.present (r : EditionReader) : EditionReader :=
  let kept : Option Reader :=
    match r.presented with
    | some .checker => if reading r.checker then some .checker else none
    | some .loader => if reading r.loader then some .loader else none
    | none => none
  let next : Option Reader :=
    match kept with
    | some p => some p
    | none => if reading r.loader then some .loader else if reading r.checker then some .checker else none
  { r with presented := next }

/-- The state with another Checker walk, the presented read settled (R70). -/
def setChecker (w : Option Walk) (s : State) : State :=
  s.setReader ({ s.reader with checker := w } : EditionReader).present

/-- The state with another Loader walk, the presented read settled (R70). -/
def setLoader (w : Option Walk) (s : State) : State :=
  s.setReader ({ s.reader with loader := w } : EditionReader).present

end Sys2Proof.Machine
end

