-- ==== Sys2Proof/Machine/Bays.lean ====
section
/-! DEFINITION. The Bay Controller (04): exchange, scan, offers, withdraws, gos, checks, loads, trigger selection, start and
stop, with the commands CHECK_DONE, LOAD_DONE and PASSED_EDGE. -/

namespace Sys2Proof.Machine

/-! ## The shadow and its record (R74, R75) -/

/-- The shadow state of a bay. -/
def State.bayState (s : State) (b : Fin 8) : BayState := (s.bays.bays.get b).state

/-- The open shadow states, in which a scan looks for an offer (R74). -/
def BayState.isOpen : BayState → Bool
  | .empty => true
  | .rejected => true
  | .released => true
  | .offered => false
  | .checking => false
  | .ready => false
  | .loading => false
  | .staged => false
  | .live => false

/-- A change of a bay's shadow state: the shadow changes, its state and the part-owned fields that the change
writes are handed to the status writer, and a BAY notice is raised while the device is RUNNING or STOPPING (R75). -/
def changeBay (b : Fin 8) (f : Bay → Bay) (fields : List (Nat × Nat × Nat)) (s : State) : State :=
  raiseIf s.working .bay
    (handFields (bayOffset b) ((0x00, 1, (f (s.bays.bays.get b)).state.code) :: fields) (modifyBay b f s))

/-- A change that writes the new state alone (R75). -/
def setBayState (b : Fin 8) (state : BayState) (s : State) : State :=
  changeBay b (fun bay => { bay with state := state }) [] s

/-- A bay that becomes RELEASED: its check summary is discarded and its go-pending mark cleared (R81, R96). -/
def releaseBay (b : Fin 8) (s : State) : State :=
  changeBay b (fun bay => { bay with state := .released, goPending := false, summary := none }) [] s

/-- The fields of a rejection (R75, R193). -/
def rejectFields (reason : RejectReason) (index : Nat) : List (Nat × Nat × Nat) :=
  [(0x21, 1, reason.code), (0x22, 1, index)]

/-- The fields an offer or a verified check writes beside the state (R75, R193). -/
def summaryFields (tag : Word) (points : Nat) : List (Nat × Nat × Nat) :=
  [(0x24, 4, tag.toNat), (0x28, 4, points)]

/-- A bay that becomes REJECTED with its reason and index: the go-pending mark is cleared and the summary
discarded (R85, R89). -/
def rejectBay (b : Fin 8) (reason : RejectReason) (index : Nat) (s : State) : State :=
  changeBay b
    (fun bay =>
      { bay with
        state := .rejected
        rejectReason := some reason
        rejectIndex := index
        goPending := false
        summary := none })
    (rejectFields reason index) s

/-! ## Gos (R87, R88) -/

/-- Whether a bay is LOADING or STAGED. -/
def BayState.isLoad : BayState → Bool
  | .loading => true
  | .staged => true
  | .empty => false
  | .offered => false
  | .checking => false
  | .ready => false
  | .live => false
  | .rejected => false
  | .released => false

/-- Every other bay that is LOADING or STAGED becomes READY and keeps its summary (R88). -/
def supersede (b : Fin 8) (s : State) : State :=
  (allOf 8).foldl
    (fun s a => if a ≠ b ∧ (s.bayState a).isLoad then setBayState a .ready s else s) s

/-- The load of a READY bay starts: other loads and stagings give way, and the Loader starts on the bay with its
recorded address, length and check summary (R88, R65). -/
def startLoad (b : Fin 8) (s : State) : State :=
  let t := setBayState b .loading (supersede b s)
  let bay := t.bays.bays.get b
  setLoader (some (startWalk t.layout b bay.address bay.length (some (planOf (bay.summary.getD emptySummary))))) t

/-- A go applied to a bay (R87). -/
def giveGo (b : Fin 8) (s : State) : State :=
  match s.bayState b with
  | .ready => startLoad b s
  | .offered => modifyBay b (fun bay => { bay with goPending := true }) s
  | .checking => modifyBay b (fun bay => { bay with goPending := true }) s
  | .loading => s
  | .staged => s
  | .live => s
  | .empty => s
  | .rejected => s
  | .released => s

/-! ## Checks (R83 to R85) -/

/-- The start of a check: with the device RUNNING and the Checker idle, the lowest-numbered OFFERED bay becomes
CHECKING and the Checker starts on it (R83). -/
def startCheck (s : State) : State :=
  if s.device.state = .running ∧ s.reader.checker = none then
    match lowest 8 (fun b => decide (s.bayState b = .offered)) with
    | none => s
    | some b =>
        let bay := s.bays.bays.get b
        setChecker (some (startWalk s.layout b bay.address bay.length none)) (setBayState b .checking s)
  else s

/-- A verified check: the bay becomes READY with its summary, tag and pool points (R84). -/
def verifyBay (b : Fin 8) (summary : CheckSummary) (points : Nat) (s : State) : State :=
  changeBay b
    (fun bay =>
      { bay with
        state := .ready
        tag := summary.tag
        poolPoints := points
        summary := some summary })
    (summaryFields summary.tag points) s

/-- The go of a bay at check-done: with the go-pending mark set or auto_go latched, the mark is cleared and one go
is applied (R84). -/
def goAtCheckDone (b : Fin 8) (s : State) : State :=
  let bay := s.bays.bays.get b
  if bay.goPending || bay.autoGo then giveGo b (modifyBay b (fun bay => { bay with goPending := false }) s) else s

/-- The result of a check applied to its bay (R84, R85). -/
def applyCheck (w : Walk) (result : WalkResult) (s : State) : State :=
  match result with
  | .passed => goAtCheckDone w.bay (verifyBay w.bay w.summary w.poolSum s)
  | .rejected reason index => rejectBay w.bay reason index s

/-- The result of a load applied to its bay (R89). -/
def applyLoad (w : Walk) (result : WalkResult) (s : State) : State :=
  match result with
  | .passed => setBayState w.bay .staged s
  | .rejected reason index => rejectBay w.bay reason index s

/-- The result that a walk has reached, with the walk. -/
def finished : Option Walk → Option (Walk × WalkResult)
  | none => none
  | some w => w.result.map (fun r => (w, r))

/-- CHECK_DONE: the Checker hands over its result, which is applied, and a new check may start; with no result
reached nothing happens (R64, R83 to R85; log 4). The next check starts here also where the check-done comes after a response
(R83; the last row of R86 says otherwise: DESIGN CHOICE, log 47). -/
def execCheckDone (s : State) : Result :=
  match finished s.reader.checker with
  | none => .next s
  | some (w, r) => .next (startCheck (applyCheck w r (setChecker none s)))

/-- LOAD_DONE: the Loader hands over its result, which is applied; with no result reached nothing happens
(R69, R89; log 4). -/
def execLoadDone (s : State) : Result :=
  match finished s.reader.loader with
  | none => .next s
  | some (w, r) => .next (applyLoad w r (setLoader none s))

/-! ## The output frame start (R77 to R82) -/

/-- The live bay number and the live edition tag (R93). -/
def setLive (number : Option (Fin 8)) (tag : Word) (s : State) : State :=
  s.setBays { s.bays with liveBay := number, liveTag := tag }

/-- Every channel's quarantine mark cleared (R162). -/
def clearQuarantine (s : State) : State :=
  s.setChannels (s.channels.map (fun c => { c with quarantined := false }))

/-- The bay that is in a shadow state, the lowest where several are. -/
def State.bayIn (s : State) (state : BayState) : Option (Fin 8) :=
  lowest 8 (fun b => decide (s.bayState b = state))

/-- The previous live bay, if one is, becomes READY (R78). -/
def retireLive (previous : Option (Fin 8)) (s : State) : State :=
  match previous with
  | none => s
  | some a => setBayState a .ready s

/-- The exchange at an output frame start: with a bay STAGED, the bank select changes, the bay becomes LIVE, the
previous live bay READY, the live number and tag follow, and the quarantine marks are cleared (R78). The new live bay's
record is handed over before the previous one's (DESIGN CHOICE, log 39). -/
def exchange (s : State) : State :=
  match s.bayIn .staged with
  | none => s
  | some b =>
      let previous := s.bayIn .live
      let swapped := s.setStore s.store.exchange
      clearQuarantine
        (setLive (some b) (s.bays.bays.get b).tag (retireLive previous (setBayState b .live swapped)))

/-- The offer taken: address and length recorded, the mark cleared, the part-owned fields set to 0 (R80). -/
def takeOffer (b : Fin 8) (r : BayRecord) (s : State) : State :=
  changeBay b
    (fun bay =>
      { bay with
        state := .offered
        goPending := false
        address := r.address
        length := r.length
        rejectReason := none
        rejectIndex := 0
        tag := 0
        poolPoints := 0
        summary := none })
    [(0x21, 1, 0), (0x22, 1, 0), (0x24, 4, 0), (0x28, 4, 0)] s

/-- The second part of a scan for a bay: an offer in an open shadow state is taken (R74, R80). -/
def scanOffer (b : Fin 8) (r : BayRecord) (s : State) : State :=
  if (s.bayState b).isOpen ∧ r.state = BayState.offered.code then takeOffer b r s else s

/-- A withdraw of a bay, by its shadow state (R81). -/
def withdraw (b : Fin 8) (s : State) : State :=
  match s.bayState b with
  | .empty => s
  | .rejected => s
  | .released => s
  | .offered => releaseBay b s
  | .checking => releaseBay b (setChecker none s)
  | .ready => releaseBay b s
  | .loading => releaseBay b (setLoader none s)
  | .staged => modifyBay b (fun bay => { bay with goPending := false }) s
  | .live => setLive none s.bays.liveTag (releaseBay b s)

/-- The third part of a scan for a bay: a withdraw (R81). -/
def scanWithdraw (b : Fin 8) (r : BayRecord) (s : State) : State := if r.withdraw then withdraw b s else s

/-- The fourth part of a scan for a bay: a host go is taken where go_request differs from go_taken (R82). -/
def scanGo (b : Fin 8) (r : BayRecord) (s : State) : State :=
  if r.goRequest ≠ (s.bays.bays.get b).goTaken then
    giveGo b (handFields (bayOffset b) [(0x20, 1, r.goRequest.toNat)]
      (modifyBay b (fun bay => { bay with goTaken := r.goRequest }) s))
  else s

/-- The scan of one bay (R79). -/
def scanBay (b : Fin 8) (r : BayRecord) (s : State) : State :=
  let latched := modifyBay b (fun bay => { bay with autoGo := r.autoGo, binding := r.binding }) s
  scanGo b r (scanWithdraw b r (scanOffer b r latched))

/-- A bay record as it stands in the control area (R79). -/
def State.bayRecord (s : State) (b : Fin 8) : BayRecord :=
  parseBay (s.controlBytes (bayOffset b) bayRecordBytes)

/-- The shadow state of a held bay rewritten into its record (R74). -/
def rewriteHeld (b : Fin 8) (s : State) : State :=
  if (s.bayState b).isOpen then s else handFields (bayOffset b) [(0x00, 1, (s.bayState b).code)] s

/-- The scan of bays 0 to 7: the records are read, the bays dealt with in order, the held states rewritten, bays 0 to 7
in order (R79, R74; the order of the rewrites, log 39). The read of a record covers the same bytes for a held bay as for an
open one (DESIGN CHOICE, log 46), and the records are read in the order of the bays (DESIGN CHOICE, log 48). -/
def scan (s : State) : State :=
  let read := (allOf 8).foldl (fun t b => afterControlRead (bayOffset b) bayRecordBytes t) s
  let dealt := (allOf 8).foldl (fun t b => scanBay b (s.bayRecord b) t) read
  (allOf 8).foldl (fun t b => rewriteHeld b t) dealt

/-- The Bay Controller's response to an output frame start while RUNNING (R77). -/
def baysAtFrameStart (s : State) : State := startCheck (scan (exchange s))

/-! ## Trigger selection (R91, R92) -/

/-- The lowest-numbered bay bound to an edge whose shadow state satisfies `p` (R91). -/
def boundBay (edge : Fin 4 × Direction) (p : BayState → Bool) (s : State) : Option (Fin 8) :=
  lowest 8 (fun b => decide ((s.bays.bays.get b).binding = some edge) && p (s.bayState b))

/-- LIVE, LOADING and STAGED, in which a bound bay keeps an edge without effect (R91). -/
def BayState.isTaken (state : BayState) : Bool := state.isLoad || decide (state = .live)

/-- OFFERED and CHECKING, in which a go waits for the check (R87, R91). -/
def BayState.isWaiting (state : BayState) : Bool := decide (state = .offered) || decide (state = .checking)

/-- An unserved edge: the count goes up by 1 and a TRIGGER notice is raised (R92). -/
def countUnserved (s : State) : State :=
  raiseNotice .trigger (s.setBays { s.bays with unserved := s.bays.unserved + 1 })

/-- The selection for a passed edge (R91). -/
def serveEdge (edge : Fin 4 × Direction) (s : State) : State :=
  match boundBay edge BayState.isTaken s with
  | some _ => s
  | none =>
      match boundBay edge (fun state => decide (state = .ready)) s with
      | some b => giveGo b s
      | none =>
          match boundBay edge BayState.isWaiting s with
          | some b => giveGo b s
          | none => countUnserved s

/-- The waiting edges of the earliest moment: the first, and those passed together with it (R110). -/
def firstMoment : List PassedEdge → List PassedEdge
  | [] => []
  | e :: rest => e :: rest.takeWhile PassedEdge.together

/-- The edge of a line that the Bay Controller may take next: moments in order, the lines of one moment in any order
(R110). -/
def nextEdge (l : Fin 4) (edges : List PassedEdge) : Option PassedEdge :=
  (firstMoment edges).find? (fun e => decide (e.line = l))

/-- The Bay Controller takes the edge of a line while the device is RUNNING; with no such edge nothing happens (R91, R92,
R110; log 4). -/
def takeEdge (l : Fin 4) (s : State) : State :=
  match nextEdge l s.triggers.edges with
  | none => s
  | some e =>
      if s.device.state = .running then
        serveEdge (e.line, e.direction) (s.setTriggers { s.triggers with edges := s.triggers.edges.erase e })
      else s

/-- The line whose edge is taken next: that of the free value where it has an edge of the earliest moment, else that of the
first edge (R110, log 44). -/
def chosenLine (n : Nat) (first : PassedEdge) (edges : List PassedEdge) : Fin 4 :=
  if (nextEdge (Config.freeLine n) edges).isSome then Config.freeLine n else first.line

/-- PASSED_EDGE: while RUNNING the Bay Controller takes one of the edges of the earliest moment; with none waiting nothing
happens (R91, R92, R110; log 4, log 44). -/
def execPassedEdge (s : State) : Result :=
  match s.triggers.edges with
  | [] => .next s
  | e :: _ =>
      if s.device.state = .running then
        .next (takeEdge (chosenLine s.triggers.choices e s.triggers.edges)
          (s.setTriggers { s.triggers with choices := s.triggers.choices + 1 }))
      else .next s

/-! ## Start and stop (R94 to R96) -/

/-- The shadow state that normalisation gives a bay, and whether the field is rewritten (R94). -/
def normalState (code : Nat) : BayState × Bool :=
  if code = BayState.empty.code ∨ code = BayState.offered.code then (.empty, false)
  else if code = BayState.rejected.code then (.rejected, false)
  else if code = BayState.released.code then (.released, false)
  else (.released, true)

/-- The normalisation of one bay from its record as read at START (R94). -/
def normaliseBay (b : Fin 8) (r : BayRecord) (s : State) : State :=
  let n := normalState r.state
  let shadowed := modifyBay b
    (fun bay =>
      { bay with
        state := n.1
        goTaken := r.goRequest
        goPending := false
        autoGo := false
        binding := none
        summary := none }) s
  let go := (0x20, 1, r.goRequest.toNat)
  handFields (bayOffset b) (if n.2 then [(0x00, 1, n.1.code), go] else [go]) shadowed

/-- The normalisation at START (R94). -/
def normalise (record : Fin 8 → BayRecord) (s : State) : State :=
  (allOf 8).foldl (fun t b => normaliseBay b (record b) t) s

/-- What entry to STOPPING does to one bay (R95). -/
def stopBay (b : Fin 8) (s : State) : State :=
  let cleared := modifyBay b (fun bay => { bay with goPending := false }) s
  match s.bayState b with
  | .checking => setBayState b .offered cleared
  | .loading => setBayState b .ready cleared
  | .staged => setBayState b .ready cleared
  | .offered => cleared
  | .ready => cleared
  | .live => cleared
  | .empty => cleared
  | .rejected => cleared
  | .released => cleared

/-- Entry to STOPPING: the check and the load in progress are abandoned, their bays returned, bays 0 to 7 in order (R95;
the order, log 39). -/
def stopBays (s : State) : State :=
  (allOf 8).foldl (fun t b => stopBay b t) (setLoader none (setChecker none s))

/-- What the end of a STOP does to one bay (R96). -/
def endBay (b : Fin 8) (s : State) : State :=
  match s.bayState b with
  | .ready => releaseBay b s
  | .live => releaseBay b s
  | .empty => s
  | .offered => s
  | .checking => s
  | .loading => s
  | .staged => s
  | .rejected => s
  | .released => s

/-- The end of a STOP: READY and LIVE bays become RELEASED, bays 0 to 7 in order, no bay is live, both banks are blanked
(R96; the order, log 39). -/
def endBays (s : State) : State :=
  let released := (allOf 8).foldl (fun t b => endBay b t) s
  (setLive none 0 released).setStore released.store.blankBoth

end Sys2Proof.Machine
end

