-- ==== Sys2Proof/Machine/Triggers.lean ====
section
/-! DEFINITION. The Trigger Unit (05): filter, alternate sources, combined level, delivery and hold-off, setup latch,
start and stop, with the commands FILTERED_LEVEL_CHANGE and HOLD_OFF_EXPIRY. -/

namespace Sys2Proof.Machine

/-! ## Levels (R104 to R106) -/

/-- The present level of an alternate source. ASPECT_WIDE follows the source link (R104). PORT_p_DOWN is 1 while
the port is used and DOWN or TRAINING (R105; an OFF port's source is 0, R155, log 37). -/
def AltSource.level (a : AltSource) (s : State) : Bool :=
  match a with
  | .aspectWide =>
      match s.source.announcement with
      | none => false
      | some f => decide (f.aspect = .wide)
  | .portDown p =>
      s.layout.used p && decide ((s.ports.get p).state = .down ∨ (s.ports.get p).state = .training)

/-- The combined level of a pin level and an alternate source level (R106). -/
def Combine.level (c : Combine) (pin alt : Bool) : Bool :=
  match c with
  | .pin => pin
  | .alt => alt
  | .pinOrAlt => pin || alt
  | .pinAndAlt => pin && alt

/-- The combined level that a line has now (R106). -/
def combinedNow (l : Fin 4) (s : State) : Bool :=
  let line := s.triggers.lines.get l
  line.setup.combine.level line.filtered (line.setup.alt.level s)

/-! ## Delivery and hold-off (R107 to R109) -/

/-- Whether an edge setting passes a direction (R109). -/
def EdgeSetting.passes (e : EdgeSetting) (d : Direction) : Bool :=
  match e, d with
  | .none, _ => false
  | .rise, .rise => true
  | .rise, .fall => false
  | .fall, .rise => false
  | .fall, .fall => true
  | .both, _ => true

/-- The direction of the edge that brings the delivered level to the combined level (R107). -/
def Line.direction (line : Line) : Direction := if line.combined then .rise else .fall

/-- The line after a delivery: the delivered level flips, the hold-off starts with the latched length; none runs
for length 0 (R107, R108). -/
def Line.deliver (line : Line) : Line :=
  { line with
    delivered := line.combined
    holdOffActive := decide (0 < line.setup.holdOff)
    holdOffLeft := line.setup.holdOff }

/-- A passed edge handed to the Bay Controller, with a TRIGGER notice (R109, R110). -/
def passEdge (l : Fin 4) (d : Direction) (s : State) : State :=
  raiseNotice .trigger (s.setTriggers { s.triggers with edges := s.triggers.edges ++ [⟨l, d, false⟩] })

/-- The edges passed since `n` of them waited are of one moment: the Bay Controller takes them in any order (R110). -/
def joinMoment (n : Nat) (s : State) : State :=
  s.setTriggers { s.triggers with
    edges := s.triggers.edges.take (n + 1) ++
      (s.triggers.edges.drop (n + 1)).map (fun e => { e with together := true }) }

/-- A delivery on a line, passed or not by the latched edge setting (R107, R109). -/
def deliverEdge (l : Fin 4) (s : State) : State :=
  let line := s.triggers.lines.get l
  let delivered := modifyLine l Line.deliver s
  if line.setup.edge.passes line.direction then passEdge l line.direction delivered else delivered

/-- The delivery test of a line (R107). -/
def deliveryTest (l : Fin 4) (s : State) : State :=
  let line := s.triggers.lines.get l
  if line.combined ≠ line.delivered ∧ line.holdOffActive = false then deliverEdge l s else s

/-- The combined level recomputed, and the delivery test (R106). -/
def recompute (l : Fin 4) (s : State) : State :=
  deliveryTest l (modifyLine l (fun line => { line with combined := combinedNow l s }) s)

/-- What lines do when alternate sources may have changed from `before` to now: each line that selects a changed
source recomputes, while the run mark is set (R104 to R106, R112). The lines deliver at one moment, so the edges they
pass may be taken in either order (R110). -/
def settleAlt (before s : State) : State :=
  if s.triggers.runMark then
    joinMoment s.triggers.edges.length
      ((allOf 4).foldl
        (fun t l =>
          let alt := (s.triggers.lines.get l).setup.alt
          if alt.level before ≠ alt.level s then recompute l t else t) s)
  else s

/-! ## Sampling (R102, R103) -/

/-- A line after a sample tick's sample of its pin (R103): the run count, and whether the filtered level is about to
take the sample, which FILTERED_LEVEL_CHANGE does. -/
def Line.sample (line : Line) (pin : Bool) : Line :=
  if pin = line.filtered then { line with pin := pin, run := 0, levelDue := false }
  else if line.setup.filter = 0 then { line with pin := pin, levelDue := true }
  else
    let n := min (line.run + 1) 255
    { line with pin := pin, run := n, levelDue := decide (line.setup.filter ≤ n) }

/-- A line's hold-off after a sample tick (R108). -/
def Line.tickHoldOff (line : Line) : Line :=
  if line.holdOffActive then { line with holdOffLeft := line.holdOffLeft - 1 } else line

/-- The filtered level takes the sample where it is due, and the combined level is recomputed (R103, R106). -/
def filterChange (l : Fin 4) (s : State) : State :=
  if s.triggers.runMark ∧ (s.triggers.lines.get l).levelDue then
    recompute l (modifyLine l (fun line => { line with filtered := line.pin, run := 0, levelDue := false }) s)
  else s

/-- Whether a line's hold-off has reached its expiry. -/
def Line.expired (line : Line) : Bool := line.holdOffActive && decide (line.holdOffLeft = 0)

/-- The expiry of a hold-off: a catch-up edge with a new hold-off, or the end of the hold-off (R108). -/
def holdOffExpiry (l : Fin 4) (s : State) : State :=
  let line := s.triggers.lines.get l
  if s.triggers.runMark ∧ line.expired then
    if line.combined ≠ line.delivered then deliverEdge l s
    else modifyLine l (fun line => { line with holdOffActive := false }) s
  else s

/-- FILTERED_LEVEL_CHANGE (R103): without a level change due nothing happens (log 4, log 9). -/
def execFilteredLevelChange (l : Fin 4) (s : State) : Result := .next (filterChange l s)

/-- HOLD_OFF_EXPIRY (R108): without an expired hold-off nothing happens (log 4, log 9). -/
def execHoldOffExpiry (l : Fin 4) (s : State) : Result := .next (holdOffExpiry l s)

/-! ## Setup (R100, R101) -/

/-- A newly latched setup: the combined level is recomputed where combine or the alternate source changed
(R101). -/
def latchLine (l : Fin 4) (setup : LineSetup) (s : State) : State :=
  let old := (s.triggers.lines.get l).setup
  let latched := modifyLine l (fun line => { line with setup := setup }) s
  if setup.combine ≠ old.combine ∨ setup.alt ≠ old.alt then recompute l latched else latched

/-- A line's setup record as it stands in the control area (R100). -/
def State.setupRecord (s : State) (l : Fin 4) : LineSetup :=
  parseSetup (s.controlBytes (setupOffset l) setupBytes)

/-- The latch of the four setup records at an output frame start, while the run mark is set; the edges it delivers are of
one moment (R100, R101, R110). The records are read in the order of the lines (DESIGN CHOICE, log 48). -/
def latchSetups (s : State) : State :=
  if s.triggers.runMark then
    let read := (allOf 4).foldl (fun t l => afterControlRead (setupOffset l) setupBytes t) s
    joinMoment s.triggers.edges.length ((allOf 4).foldl (fun t l => latchLine l (s.setupRecord l) t) read)
  else s

/-! ## Start and stop (R111, R112) -/

/-- A line at the initialisation of a START: it begins where it stands, with no edge (R111). -/
def initialiseLine (l : Fin 4) (setup : LineSetup) (pin : Bool) (s : State) : State :=
  let level := setup.combine.level pin (setup.alt.level s)
  modifyLine l
    (fun _ =>
      { setup := setup
        filtered := pin
        run := 0
        levelDue := false
        combined := level
        delivered := level
        holdOffActive := false
        holdOffLeft := 0
        pin := pin }) s

/-- The initialisation of the lines at START, after which the run mark is set (R111). -/
def initialiseLines (setup : Fin 4 → LineSetup) (pins : BitVec 4) (s : State) : State :=
  let lines := (allOf 4).foldl (fun t l => initialiseLine l (setup l) (pins.getLsbD l.val) t) s
  lines.setTriggers { lines.triggers with runMark := true }

/-- A line at entry to STOPPING: its hold-off is cancelled, the rest is frozen (R112). A level change that is due and has not
come is dropped (DESIGN CHOICE, log 52). -/
def Line.freeze (line : Line) : Line := { line with holdOffActive := false, holdOffLeft := 0, levelDue := false }

/-- Entry to STOPPING: the run mark is cleared, hold-offs are cancelled, edges not yet taken are discarded (R112). -/
def stopTriggers (s : State) : State :=
  s.setTriggers { s.triggers with runMark := false, lines := s.triggers.lines.map Line.freeze, edges := [] }

/-- A reset of the Trigger Unit; the pins keep their levels (R113, log 25). -/
def clearedTriggers (t : Triggers) : Triggers :=
  { t with runMark := false, lines := t.lines.map (fun line => resetLine line.pin), edges := [] }

end Sys2Proof.Machine
end

