-- ==== Sys2Proof/Machine/Capture.lean ====
section
/-! DEFINITION. The Capture Unit (06): capture states, fills, the line FIFO, handoff, start and stop, with the commands
PRESENCE_CHANGE, FORMAT_ANNOUNCEMENT, LINE and FILL_DONE. -/

namespace Sys2Proof.Machine

namespace Capture

/-! ## Slots (R117, R118) -/

/-- The address of a slot (R117). -/
def slotAddress (c : Capture) (n : Fin 3) : Nat := c.slotBase + n.val * c.slotSize

/-- The address of a canvas pixel in a slot (R117). -/
def pixelAddress (c : Capture) (n : Fin 3) (x y : Nat) : Nat := c.slotAddress n + (y * c.wc + x) * 4

/-- The lowest-numbered slot in a state. -/
def slotIn (c : Capture) (state : SlotState) : Option (Fin 3) :=
  lowest 3 (fun n => decide ((c.slots.get n).state = state))

/-- Every slot in a state moved to another; the sequence numbers stay (R118). -/
def moveSlots (c : Capture) (old new : SlotState) : Capture :=
  { c with slots := c.slots.map (fun slot => if slot.state = old then { slot with state := new } else slot) }

/-! ## Fills (R120, R123, R126) -/

/-- The discard of the fill in progress: its slot becomes FREE, its pixels and any pending frame are removed
(R126). -/
def discard (c : Capture) : Capture :=
  { c.moveSlots .filling .free with lines := 0, fifo := [], pendingStart := false, pendingLines := 0 }

/-- A discard that counts as a discarded partial frame (R119 to R121, R126). -/
def discardPartial (c : Capture) : Capture :=
  { c.discard with discardedPartial := c.discardedPartial + 1 }

/-- The start of a fill: the lowest-numbered FREE slot becomes FILLING with the next sequence number (R118, R120). -/
def startFill (c : Capture) : Capture :=
  match c.slotIn .free with
  | none => c
  | some n =>
      { c with
        slots := c.slots.set n ⟨.filling, c.fillSequence + 1⟩
        fillSequence := c.fillSequence + 1
        lines := 0
        state := .capturing }

/-- An input frame start (R120). -/
def onInput (c : Capture) : Capture :=
  match c.state with
  | .noSignal => c
  | .mismatch => c
  | .waiting => c.startFill
  | .capturing =>
      if c.pendingStart then
        { c with
          fifo := c.fifo.filter (fun p => p.slot.isSome)
          pendingLines := 0
          discardedPartial := c.discardedPartial + 1 }
      else if c.lines < c.hc then c.discardPartial.startFill
      else { c with pendingStart := true, pendingLines := 0 }

/-- Whether an announcement matches the canvas (R115). -/
def matchesFormat (c : Capture) (f : Format) : Bool := decide (f.width = c.wc ∧ f.height = c.hc)

/-- The capture state as the link stands, without a fill (R131). -/
def stateOf (c : Capture) (link : Option Format) : CaptureState :=
  match link with
  | none => .noSignal
  | some f => if c.matchesFormat f then .waiting else .mismatch

/-- A presence change or a format announcement (R119). -/
def follow (c : Capture) (link : Option Format) : Capture :=
  let next := c.stateOf link
  match c.state with
  | .capturing => if next = .waiting then c else { c.discardPartial with state := next }
  | .noSignal => { c with state := next }
  | .waiting => { c with state := next }
  | .mismatch => { c with state := next }

/-- The pixels of a row with their tags (R117, R121). -/
def tagged (slot : Option (Fin 3)) (row : Nat) (column : Nat) : List Pixel → List FifoPixel
  | [] => []
  | p :: rest => ⟨slot, row, column, p⟩ :: tagged slot row (column + 1) rest

/-- The line FIFO overflows: the fill is discarded, the overflow counted (R122). -/
def overflow (c : Capture) : Capture :=
  { c.discard with overflows := c.overflows + 1, state := .waiting }

/-- A short line: the fill is discarded and counted (R121). -/
def shortLine (c : Capture) : Capture := { c.discardPartial with state := .waiting }

/-- A line that the fill takes: its first Wc pixels enter the line FIFO, unless one of them finds it full or the line
ends short; `count` counts the line (R121, R122, log 11). -/
def takeLine (c : Capture) (slot : Option (Fin 3)) (row : Nat) (pixels : List Pixel) (count : Capture → Capture) :
    Capture :=
  let taken := pixels.take c.wc
  if Config.fifoPixels < c.fifo.length + taken.length then c.overflow
  else if taken.length < c.wc then c.shortLine
  else count { c with fifo := c.fifo ++ tagged slot row 0 taken }

/-- A line received (R121, R123). -/
def onLine (c : Capture) (pixels : List Pixel) : Capture :=
  match c.state with
  | .noSignal => c
  | .waiting => c
  | .mismatch => c
  | .capturing =>
      if c.pendingStart then
        if c.pendingLines < c.hc then
          c.takeLine none c.pendingLines pixels (fun d => { d with pendingLines := d.pendingLines + 1 })
        else c
      else if c.lines < c.hc then
        c.takeLine (c.slotIn .filling) c.lines pixels (fun d => { d with lines := d.lines + 1 })
      else c

/-- Whether the last pixel of the last row of the fill has been written: every line received and no pixel of the
fill left in the FIFO (R123). -/
def fillWritten (c : Capture) : Bool :=
  decide (c.state = .capturing ∧ c.lines = c.hc) && (c.slotIn .filling).isSome && c.fifo.all (fun p => p.slot.isNone)

/-- An older COMPLETE slot, if one is, becomes FREE and counts as dropped (R123). -/
def dropComplete (c : Capture) : Capture :=
  if (c.slotIn .complete).isSome then { c.moveSlots .complete .free with dropped := c.dropped + 1 } else c

/-- The fill that follows a pending start: it takes the lines already received and the pixels that wait (R123). -/
def startPending (c : Capture) : Capture :=
  let started := c.startFill
  let slot := started.slotIn .filling
  { started with
    lines := c.pendingLines
    pendingLines := 0
    pendingStart := false
    fifo := started.fifo.map (fun p => { p with slot := slot }) }

/-- Fill-done (R123). -/
def fillDone (c : Capture) : Capture :=
  let completed := c.dropComplete.moveSlots .filling .complete
  if c.pendingStart then completed.startPending else { completed with state := .waiting }

/-! ## Handoff (R124) -/

/-- The handoff at an output frame start with freeze as read (R124). -/
def handoff (c : Capture) (freeze : Bool) : Capture :=
  if freeze = false ∧ (c.slotIn .complete).isSome then (c.moveSlots .reading .free).moveSlots .complete .reading
  else if (c.slotIn .reading).isSome then { c with repeated := c.repeated + 1 }
  else c

/-! ## Start and stop (R131, R132) -/

/-- Every slot FREE, the sequence numbers kept. -/
def freeSlots (c : Capture) : Arr 3 Slot := c.slots.map (fun slot => { slot with state := .free })

/-- Capture enabled at START with the profile's canvas and slots, on the link as it stands (R131). -/
def enable (c : Capture) (h : Header) (link : Option Format) : Capture :=
  let latched := { c with
    wc := h.wc
    hc := h.hc
    slotBase := h.slotBase
    slotSize := slotSizeOf h.wc h.hc
    slots := c.freeSlots
    pendingStart := false
    lines := 0
    pendingLines := 0
    fifo := []
    enabled := true }
  { latched with state := latched.stateOf link }

/-- Capture disabled at the end of a STOP (R132). -/
def disable (c : Capture) : Capture :=
  { c with
    slots := c.freeSlots
    fifo := []
    pendingStart := false
    pendingLines := 0
    state := .noSignal
    enabled := false }

/-- Whether a change raises a SOURCE notice: the capture state changed, or a discard or an overflow was counted, while
the enable mark is set (R129). -/
def notices (before after : Capture) : Bool :=
  before.enabled &&
    decide (before.state ≠ after.state ∨ before.discardedPartial ≠ after.discardedPartial ∨
      before.overflows ≠ after.overflows)

end Capture

/-! ## The commands -/

/-- A source link event taken by the Capture Unit while its enable mark is set, with its SOURCE notice (R116,
R129). -/
def changeCapture (f : Capture → Capture) (s : State) : State :=
  if s.capture.enabled then
    raiseIf (s.capture.notices (f s.capture)) .source (s.setCapture (f s.capture))
  else s

/-- The link shows another presence or announcement: the Capture Unit and the trigger lines follow (R115, R119,
R104). -/
def followLink (link : Option Format) (s : State) : State :=
  settleAlt s (changeCapture (fun c => c.follow link) (s.setSource ⟨link⟩))

/-- PRESENCE_CHANGE (R115, R119, R104). -/
def execPresenceChange (link : Option Format) (s : State) : Result := .next (followLink link s)

/-- FORMAT_ANNOUNCEMENT, which comes while presence is on; without presence nothing happens (R115, R119; log 4). -/
def execFormatAnnouncement (f : Format) (s : State) : Result :=
  match s.source.announcement with
  | none => .next s
  | some _ => .next (followLink (some f) s)

/-- LINE (R121, R122; log 11). -/
def execLine (pixels : List Pixel) (s : State) : Result := .next (changeCapture (fun c => c.onLine pixels) s)

/-- FILL_DONE: with the fill not yet wholly written nothing happens; the sender gives it at once after the burst that writes
the last pixel (R123; log 4, log 42). -/
def execFillDone (s : State) : Result :=
  if s.capture.fillWritten then .next (changeCapture Capture.fillDone s) else .next s

/-- The freeze field as it stands in the control area: nonzero is on (R124). -/
def State.freeze (s : State) : Bool := decide (leNat (s.controlBytes freezeOffset 4) ≠ 0)

/-- The Capture Unit's response to an output frame start while its enable mark is set: freeze is read and the
handoff made; it raises no notice (R124, R129). -/
def captureAtFrameStart (s : State) : State :=
  if s.capture.enabled then
    let read := afterControlRead freezeOffset 4 s
    read.setCapture (read.capture.handoff s.freeze)
  else s

end Sys2Proof.Machine
end

