-- ==== Sys2Proof/Machine/Pixel.lean ====
section
/-! DEFINITION. The arithmetic of one output pixel, stages 1 to 8, its calibration modes and its table reads (01). -/

namespace Sys2Proof

/-- A change made to each component. -/
def RGB.map {α β : Type} (f : α → β) (x : RGB α) : RGB β := ⟨f x.r, f x.g, f x.b⟩

/-- The components as a list. -/
def RGB.toList {α : Type} (x : RGB α) : List α := [x.r, x.g, x.b]

end Sys2Proof

namespace Sys2Proof.Machine

/-! ## Stage 1: cell (R4) -/

/-- The mesh cell that holds a pixel, with the pixel's offsets in it (R4). -/
structure Cell where
  spacing : Nat
  i : Nat
  j : Nat
  fx : Nat
  fy : Nat
deriving DecidableEq, Repr

/-- The cell of pixel (x, y) (R4). -/
def cellOf (spacing x y : Nat) : Cell := ⟨spacing, x / spacing, y / spacing, x % spacing, y % spacing⟩

/-- The four corners of a cell: 00, 10, 01, 11 (R4). -/
structure Corners (α : Type) where
  c00 : α
  c10 : α
  c01 : α
  c11 : α
deriving DecidableEq, Repr

/-- Every corner's value under `f`. -/
def Corners.map {α β : Type} (f : α → β) (c : Corners α) : Corners β := ⟨f c.c00, f c.c10, f c.c01, f c.c11⟩

/-- The corners as a list. -/
def Corners.toList {α : Type} (c : Corners α) : List α := [c.c00, c.c10, c.c01, c.c11]

/-- The pool entries of a cell's corners (R4, R30). -/
def cornerIndices (t : ChannelTables) (cell : Cell) : Corners Nat where
  c00 := Bank.pointIndex t cell.i cell.j
  c10 := Bank.pointIndex t (cell.i + 1) cell.j
  c01 := Bank.pointIndex t cell.i (cell.j + 1)
  c11 := Bank.pointIndex t (cell.i + 1) (cell.j + 1)

/-- The corner points of pixel (x, y) as a bank holds them (R4). -/
def cornersAt (b : Bank) (c : Fin 6) (x y : Nat) : Corners MeshPoint :=
  (cornerIndices (b.channels.get c) (cellOf (b.channels.get c).spacing x y)).map b.pointAt

/-- A pixel with any VOID corner is void (R5). -/
def Corners.isVoid (p : Corners MeshPoint) : Bool := p.toList.any MeshPoint.void

/-! ## Stage 2: coordinates (R6, R7) -/

/-- The rounded bilinear mean of four corner values (R6): products and sums exact, one floor division (R3). -/
def bilinear (cell : Cell) (p : Corners Int) : Int :=
  let s : Int := cell.spacing
  let fx : Int := cell.fx
  let fy : Int := cell.fy
  ((s - fx) * (s - fy) * p.c00 + fx * (s - fy) * p.c10 + (s - fx) * fy * p.c01 + fx * fy * p.c11 + s * s / 2) / (s * s)

/-- The canvas coordinates and weights of a pixel (R6, R7). -/
structure Coordinates where
  u : Int
  v : Int
  w : Nat
  q : Nat
deriving DecidableEq, Repr

/-- Stage 2 (R6, R7). -/
def coordinatesOf (cell : Cell) (p : Corners MeshPoint) : Coordinates where
  u := bilinear cell (p.map MeshPoint.u)
  v := bilinear cell (p.map MeshPoint.v)
  w := (bilinear cell (p.map (fun m => (m.w : Int)))).toNat
  q := (bilinear cell (p.map (fun m => (m.q : Int)))).toNat

/-- Stages 1 and 2 of pixel (x, y) (R4, R6, R7). -/
def coordinatesAt (b : Bank) (c : Fin 6) (x y : Nat) : Coordinates :=
  coordinatesOf (cellOf (b.channels.get c).spacing x y) (cornersAt b c x y)

/-! ## Stage 3: canvas test (R8, R9) -/

/-- A coordinate against `n` canvas columns or rows: none outside, else clamped (R8). -/
def canvasTest (a : Int) (n : Nat) : Option Nat :=
  if a ≤ -64 ∨ (n : Int) * 64 ≤ a then none
  else some (min (max a 0) (((n : Int) - 1) * 64)).toNat

/-- Where an inside pixel samples the canvas: whole pixel and fraction in each axis, with the neighbours (R11). -/
structure SamplePlace where
  column : Nat
  row : Nat
  nextColumn : Nat
  nextRow : Nat
  au : Nat
  av : Nat
deriving DecidableEq, Repr

/-- Stage 3 and the split of stage 4: none for an outside pixel (R8, R9, R11). -/
def samplePlace (wc hc : Nat) (p : Coordinates) : Option SamplePlace :=
  match canvasTest p.u wc, canvasTest p.v hc with
  | some u, some v =>
      some
        { column := u / 64
          row := v / 64
          nextColumn := min (u / 64 + 1) (wc - 1)
          nextRow := min (v / 64 + 1) (hc - 1)
          au := u % 64
          av := v % 64 }
  | _, _ => none

/-- The canvas positions (column, row) that a place reads: P00, P10, P01, P11 (R11). -/
def SamplePlace.positions (p : SamplePlace) : Corners (Nat × Nat) where
  c00 := (p.column, p.row)
  c10 := (p.nextColumn, p.row)
  c01 := (p.column, p.nextRow)
  c11 := (p.nextColumn, p.nextRow)

/-! ## Stage 4: sampling (R12) -/

/-- The rounded weighted mean of four codes (R12). -/
def sampleMean (au av : Nat) (p : Corners Nat) : Nat :=
  ((64 - au) * (64 - av) * p.c00 + au * (64 - av) * p.c10 + (64 - au) * av * p.c01 + au * av * p.c11 + 2048) / 4096

/-- Stage 4: the source codes at a place of the canvas (R12). -/
def sampleCanvas (canvas : Nat × Nat → Codes) (p : SamplePlace) : Codes :=
  let at' := p.positions.map canvas
  ⟨sampleMean p.au p.av (at'.map RGB.r), sampleMean p.au p.av (at'.map RGB.g), sampleMean p.au p.av (at'.map RGB.b)⟩

/-- Code 0 for R, G and B. -/
def codeZero : Codes := ⟨0, 0, 0⟩

/-- The source codes of a PICTURE pixel: 0 outside the canvas and with no READING slot (R9, R10, R12). -/
def pictureSource (wc hc : Nat) (canvas : Option (Nat × Nat → Codes)) (p : Coordinates) : Codes :=
  match canvas, samplePlace wc hc p with
  | some read, some place => sampleCanvas read place
  | _, _ => codeZero

/-! ## Stages 5 and 6: decode and matrix (R14 to R16) -/

/-- Stage 5 (R14). -/
def decodeCodes (b : Bank) (code : Codes) : RGB Nat := code.map (fun c => b.decode.getD c 0)

/-- The matrix sum of a row before its clamp (R15). -/
def matrixRow (m : List Int) (row : Nat) (l : RGB Nat) : Int :=
  (m.getD (3 * row) 0 * l.r + m.getD (3 * row + 1) 0 * l.g + m.getD (3 * row + 2) 0 * l.b + 2048) / 4096

/-- The clamp to 0 to 65,535 (R15). -/
def clampLinear (a : Int) : Nat := (min (max a 0) 65535).toNat

/-- The three matrix results before their clamps (R15). -/
def matrixSums (m : List Int) (l : RGB Nat) : RGB Int := ⟨matrixRow m 0 l, matrixRow m 1 l, matrixRow m 2 l⟩

/-- Whether the clamp changed a component: a clipped pixel (R16). -/
def clippedBy (sums : RGB Int) : Bool := sums.toList.any (fun a => decide (a < 0 ∨ 65535 < a))

/-! ## Stage 7: ramp and blend (R18, R19) -/

/-- An interpolation along a segment, the half of the divisor added before the floor division (R18, R21). -/
def segment (first next : Nat) (offset divisor : Nat) : Nat :=
  ((first : Int) + (((next : Int) - first) * offset + (divisor / 2 : Nat)) / divisor).toNat

/-- The ramp value β of a weight (R18). -/
def rampValue (ramp : List Nat) (w : Nat) : Nat :=
  let k := w / 256
  if k = 16 then ramp.getD 16 0 else segment (ramp.getD k 0) (ramp.getD (k + 1) 0) (w - 256 * k) 256

/-- The blend of a component (R19). -/
def blend (beta l : Nat) : Nat := (l * beta + 2048) / 4096

/-! ## Stage 8: uplift and encode (R20, R21) -/

/-- The lifted value of a component (R20). -/
def lift (uplift q blended : Nat) : Nat := min 65535 (blended + (uplift * q + 2048) / 4096)

/-- The output code of a lifted value (R21). -/
def encodeValue (table : List Nat) (lo : Nat) : Nat :=
  segment (table.getD (lo / 64) 0) (table.getD (lo / 64 + 1) 0) (lo - 64 * (lo / 64)) 64

/-! ## Stages 5 to 8 together -/

/-- A pixel as computed: its codes, whether it is clipped (R16), whether a table read failed parity (R25). -/
structure PixelResult where
  codes : Codes
  clipped : Bool
  parityFailed : Bool
deriving DecidableEq, Repr

/-- A pixel output as it stands, without clipping or failure. -/
def plainPixel (codes : Codes) : PixelResult := ⟨codes, false, false⟩

/-- A pixel for which a read failed parity: code 0, no clip (R25, R43). -/
def failedPixel : PixelResult := ⟨codeZero, false, true⟩

/-- The lifted values that stages 5 to 8 reach from source codes (R14 to R20). -/
def liftedValues (b : Bank) (t : ChannelTables) (p : Coordinates) (source : Codes) : RGB Nat :=
  let corrected := (matrixSums t.matrix (decodeCodes b source)).map clampLinear
  let blended := corrected.map (blend (rampValue t.ramp p.w))
  ⟨lift t.uplift.r p.q blended.r, lift t.uplift.g p.q blended.g, lift t.uplift.b p.q blended.b⟩

/-- The codes that stages 5 to 8 give (R14 to R21). -/
def codedPixel (b : Bank) (t : ChannelTables) (p : Coordinates) (source : Codes) : Codes :=
  (liftedValues b t p source).map (encodeValue t.encode)

/-- Whether a pixel of these source codes is clipped (R16). -/
def pixelClips (b : Bank) (t : ChannelTables) (source : Codes) : Bool :=
  clippedBy (matrixSums t.matrix (decodeCodes b source))

/-! ## The words that a pixel reads (R25) -/

/-- The ramp entries that a weight reads (R25). -/
def rampWords (c : Fin 6) (w : Nat) : List TableWord :=
  if w / 256 = 16 then [.ramp c 16] else [.ramp c (w / 256), .ramp c (w / 256 + 1)]

/-- The encode entries that a lifted value reads (R25). -/
def encodeWords (c : Fin 6) (lo : Nat) : List TableWord := [.encode c (lo / 64), .encode c (lo / 64 + 1)]

/-- The words that stages 5 to 8 read (R25). -/
def colourWords (b : Bank) (c : Fin 6) (p : Coordinates) (source : Codes) : List TableWord :=
  source.toList.map .decode ++ (List.range 9).map (.matrix c) ++ rampWords c p.w ++
    (List.range 3).map (.uplift c) ++
    (liftedValues b (b.channels.get c) p source).toList.flatMap (encodeWords c)

/-- The words of the corner points (R25). -/
def cornerWords (b : Bank) (c : Fin 6) (x y : Nat) : List TableWord :=
  ((cornerIndices (b.channels.get c) (cellOf (b.channels.get c).spacing x y)).toList).map .point

/-! ## The paths (R2) -/

/-- What a pixel's computation takes from its channel: the mode and flat codes in effect and the quarantine
mark (R1). -/
structure ChannelView where
  mode : Mode
  flat : Codes
  quarantined : Bool
deriving DecidableEq, Repr

/-- Whether a pixel of GRID mode is a dot (R23). -/
def gridDot (spacing x y : Nat) : Bool := decide (x % spacing < 2 ∧ y % spacing < 2)

/-- A pixel of GRID mode (R23). -/
def gridPixel (flat : Codes) (spacing x y : Nat) : PixelResult :=
  plainPixel (if gridDot spacing x y then flat else codeZero)

/-- A pixel of an active cell in PICTURE or FLAT mode, from its source codes (R2, R25). -/
def activePixel (b : Bank) (c : Fin 6) (p : Coordinates) (source : Codes) : PixelResult :=
  if b.anyBad (colourWords b c p source) then failedPixel
  else ⟨codedPixel b (b.channels.get c) p source, pixelClips b (b.channels.get c) source, false⟩

/-- A pixel of a cell in PICTURE or FLAT mode: void, or computed (R2, R5, R25). -/
def cellPixel (b : Bank) (c : Fin 6) (x y : Nat) (source : Coordinates → Codes) : PixelResult :=
  if b.anyBad (cornerWords b c x y) then failedPixel
  else if (cornersAt b c x y).isVoid then plainPixel codeZero
  else activePixel b c (coordinatesAt b c x y) (source (coordinatesAt b c x y))

/-- A pixel of a channel with a mesh, by the mode in effect (R2, R22, R23, R25). -/
def meshPixel (view : ChannelView) (b : Bank) (c : Fin 6) (x y : Nat) (picture : Coordinates → Codes) : PixelResult :=
  if b.anyBad [.geometry c] then failedPixel
  else
    match view.mode with
    | .mute => plainPixel codeZero
    | .grid => gridPixel view.flat (b.channels.get c).spacing x y
    | .flat => cellPixel b c x y (fun _ => view.flat)
    | .picture => cellPixel b c x y picture

/-- The value of pixel (x, y) of channel `c` from the active bank `b` and the canvas it reads, none with no READING
slot: the first row of R2 that holds decides the path, and the first read that fails parity ends it (R2, R25). -/
def pixelValue (view : ChannelView) (b : Bank) (c : Fin 6) (wc hc : Nat) (canvas : Option (Nat × Nat → Codes))
    (x y : Nat) : PixelResult :=
  if view.quarantined then plainPixel codeZero
  else if view.mode = .mute then plainPixel codeZero
  else if b.anyBad [.meshMark c] then failedPixel
  else if (b.channels.get c).meshPresent then meshPixel view b c x y (pictureSource wc hc canvas)
  else plainPixel codeZero

/-- The canvas positions that pixel (x, y) needs: those of an inside pixel of an active cell, in PICTURE mode, on a
channel that is not quarantined and holds a mesh, with a slot READING (R11, R156, R158). Mark, geometry and corner words
are taken as they stand, whatever their parity (DESIGN CHOICE, log 19). -/
def pixelNeeds (view : ChannelView) (b : Bank) (c : Fin 6) (wc hc : Nat) (hasSlot : Bool) (x y : Nat) :
    List (Nat × Nat) :=
  if view.quarantined = false ∧ view.mode = .picture ∧ (b.channels.get c).meshPresent ∧ hasSlot ∧
      (cornersAt b c x y).isVoid = false then
    match samplePlace wc hc (coordinatesAt b c x y) with
    | none => []
    | some p => p.positions.toList
  else []

end Sys2Proof.Machine
end

