-- ==== Sys2Proof/Machine/Channels.lean ====
section
/-! DEFINITION. The render channels (01, 08): read-ahead, computing pixels, quarantine, late pixels, controls and counts,
with the commands RENDER_PIXEL and PIXEL_DUE. -/

namespace Sys2Proof.Machine

/-! ## What a channel sees (R1, R156) -/

/-- What a pixel's computation takes from a channel (R1). -/
def Channel.view (ch : Channel) : ChannelView := ⟨ch.mode, ch.flat, ch.quarantined⟩

/-- A count that stops at 2^32 − 1 (R16, R159). -/
def saturate (n : Nat) : Nat := min n Config.countLimit

/-- The canvas positions that pixel number `n` of channel `c` needs (R11, R156). -/
def needsOf (s : State) (c : Fin 6) (n : Nat) : List (Nat × Nat) :=
  pixelNeeds (s.channels.get c).view s.store.active c s.capture.wc s.capture.hc
    (s.capture.readingSlot).isSome (n % s.layout.wr) (n / s.layout.wr)

/-- The pixel numbers of the frame that channel `c` has still to compute. -/
def pixelsLeft (s : State) (c : Fin 6) : List Nat :=
  (List.range (s.layout.rasterPixels - (s.channels.get c).nextPixel)).map ((s.channels.get c).nextPixel + ·)

/-- Whether a pixel of the frame still to be computed needs a canvas row (R156). -/
def rowNeeded (s : State) (c : Fin 6) (row : Nat) : Bool :=
  (pixelsLeft s c).any (fun n => (needsOf s c n).any (fun p => decide (p.2 = row)))

/-- The rows that no pixel still to be computed needs leave the window (R156). -/
def pruneWindow (c : Fin 6) (s : State) : State :=
  modifyChannel c (fun ch => { ch with window := ch.window.filter (fun r => rowNeeded s c r.row) }) s

/-! ## The read-ahead window (R156) -/

/-- The window's row of a canvas row number. -/
def windowRow (window : List WindowRow) (row : Nat) : Option WindowRow := window.find? (fun r => decide (r.row = row))

/-- Whether a canvas pixel has arrived in the window. -/
def arrived (window : List WindowRow) (p : Nat × Nat) : Bool :=
  match windowRow window p.2 with
  | none => false
  | some r => decide (4 * (p.1 + 1) ≤ r.got.length)

/-- The codes of a canvas pixel in the window (R117). -/
def windowCodes (window : List WindowRow) (p : Nat × Nat) : Codes :=
  match windowRow window p.2 with
  | none => codeZero
  | some r => pixelCodes (field r.got (4 * p.1) 4)

/-- Whether a row has arrived whole. -/
def WindowRow.whole (wc : Nat) (r : WindowRow) : Bool := decide (4 * wc ≤ r.got.length)

/-- The row of a window that has been requested and has not arrived whole. -/
def requested (s : State) (window : List WindowRow) : Option WindowRow :=
  window.find? (fun r => !r.whole s.capture.wc)

/-- The rows that the pixels of the frame need, in the order in which the pixels first need them, a pixel's own row before its
neighbour row (R156, log 21). -/
def rowsInOrder (s : State) (c : Fin 6) : List Nat :=
  (List.range s.layout.rasterPixels).flatMap (fun n => (needsOf s c n).map Prod.snd)

/-- The row that channel `c` requests next: the first in the order of need that a pixel still to be computed needs and that
the window does not hold (R156). -/
def rowToRequest (s : State) (c : Fin 6) (window : List WindowRow) : Option Nat :=
  (rowsInOrder s c).find? (fun row => rowNeeded s c row && (windowRow window row).isNone)

/-- The window of channel `c` after its request: a rendering channel whose requested rows have arrived requests the next one
while the window holds fewer than 130 rows, and the row enters the window at the request (R156, log 21). -/
def request (s : State) (c : Fin 6) (window : List WindowRow) : List WindowRow :=
  if (s.channels.get c).rendering ∧ requested s window = none ∧ window.length < Config.windowRows then
    window ++ (rowToRequest s c window).toList.map (fun row => ⟨row, []⟩)
  else window

/-- The channel's fetcher requests its next row where it may (R156). -/
def requestRow (c : Fin 6) (s : State) : State :=
  modifyChannel c (fun ch => { ch with window := request s c ch.window }) s

/-- The row that channel `c`'s fetcher reads, with the bytes it already has; none when the fetcher does not wait (R156,
R168). -/
def nextRow (s : State) (c : Fin 6) : Option WindowRow :=
  let ch := s.channels.get c
  if ch.rendering then requested s ch.window else none

/-- Bytes of a canvas row taken into the window (R156). -/
def storeRow (window : List WindowRow) (r : WindowRow) (bytes : List Byte) : List WindowRow :=
  window.map (fun w => if w.row = r.row then ⟨w.row, w.got ++ bytes⟩ else w)

/-! ## Computing a pixel (R2, R43, R161) -/

/-- The code of a bank in a TABLE fault's detail (R190). -/
def BankName.code : BankName → Nat
  | .a => 0
  | .b => 1

/-- The detail of a TABLE fault: the channel in bits 7 to 0, the bank in bits 15 to 8 (R190). -/
def tableDetail (c : Fin 6) (bank : BankName) : Word := BitVec.ofNat 32 (c.val + 256 * bank.code)

/-- Whether the canvas data of the channel's next pixel has arrived (R158). What the pixel needs is found from the mesh
values as they stand, so that a pixel whose words fail parity may be late (DESIGN CHOICE, log 19). -/
def dataArrived (s : State) (c : Fin 6) : Bool :=
  (needsOf s c (s.channels.get c).nextPixel).all (arrived (s.channels.get c).window)

/-- The value of the channel's next pixel (R2). -/
def nextValue (s : State) (c : Fin 6) : PixelResult :=
  let ch := s.channels.get c
  pixelValue ch.view s.store.active c s.capture.wc s.capture.hc
    (if (s.capture.readingSlot).isSome then some (windowCodes ch.window) else none)
    (ch.nextPixel % s.layout.wr) (ch.nextPixel / s.layout.wr)

/-- Entry to quarantine: the mark is set, a CHANNEL notice raised and a TABLE fault taken (R43, R161). -/
def enterQuarantine (c : Fin 6) (s : State) : State :=
  takeFault .table (tableDetail c s.store.select)
    (raiseNotice .channel (modifyChannel c (fun ch => { ch with quarantined := true }) s))

/-- The channel moved past its next pixel, a clip counted; rows no longer needed leave the window, and the fetcher may
request another (R16, R156). -/
def passPixel (c : Fin 6) (clipped : Bool) (s : State) : State :=
  requestRow c
    (pruneWindow c
      (modifyChannel c
        (fun ch =>
          { ch with
            nextPixel := ch.nextPixel + 1
            clipRunning := saturate (ch.clipRunning + bit clipped) }) s))

/-- The channel's next pixel computed: its clip is counted, a parity failure quarantines the channel (R16, R161). -/
def computePixel (c : Fin 6) (s : State) : State :=
  let value := nextValue s c
  passPixel c value.clipped (if value.parityFailed then enterQuarantine c s else s)

/-- RENDER_PIXEL: a rendering channel with pixels left computes the next one, once its data is present, and keeps its codes
for the port (R2, R156; log 4). -/
def execRenderPixel (c : Fin 6) (s : State) : Result :=
  if (s.channels.get c).rendering ∧ (s.channels.get c).nextPixel < s.layout.rasterPixels ∧ dataArrived s c then
    let value := nextValue s c
    .next (modifyChannel c (fun ch => { ch with ready := ch.ready ++ [⟨value.codes, value.clipped⟩] }) (computePixel c s))
  else .next s

/-! ## Sending a pixel (R157 to R159) -/

/-- A port sends codes. -/
def sendCodes (p : Fin 6) (codes : Codes) (s : State) : State := modifyPort p (fun port => { port with sent := codes }) s

/-- A late pixel: the line is counted at its first one, the channel moves on, and the port sends the repeat, or code 0 at
the first pixel of a line (R158, R159). -/
def latePixel (p c : Fin 6) (s : State) : State :=
  let n := (s.channels.get c).nextPixel
  let y := n / s.layout.wr
  let counted := modifyChannel c
    (fun ch =>
      { ch with
        lateRunning := if ch.lateLine = some y then ch.lateRunning else saturate (ch.lateRunning + 1)
        lateLine := some y }) s
  sendCodes p (if n % s.layout.wr = 0 then codeZero else (s.ports.get p).sent) (passPixel c false counted)

/-- A pixel of a rendering channel falls due: computed codes that are ready are sent; else the pixel is computed if its
data is present; else it is late (R157, R158; log 20). -/
def duePixel (p c : Fin 6) (s : State) : State :=
  match (s.channels.get c).ready with
  | pixel :: rest => sendCodes p pixel.codes (modifyChannel c (fun ch => { ch with ready := rest }) s)
  | [] =>
      if dataArrived s c then sendCodes p (nextValue s c).codes (computePixel c s)
      else latePixel p c s

/-- What port `p` sends for the pixel that falls due (R157). -/
def sendPixel (p : Fin 6) (s : State) : State :=
  if (s.ports.get p).state = .up then
    match s.layout.channelOf p with
    | none => sendCodes p codeZero s
    | some c => if (s.channels.get c).rendering then duePixel p c s else sendCodes p codeZero s
  else s

/-- PIXEL_DUE: the next pixel of the raster falls due at a port; after the last one nothing is due (R157; log 20). -/
def execPixelDue (p : Fin 6) (s : State) : Result :=
  if (s.ports.get p).position < s.layout.rasterPixels then
    .next (modifyPort p (fun port => { port with position := port.position + 1 }) (sendPixel p s))
  else .next s

/-! ## Frame boundaries (R17, R156, R159, R160) -/

/-- A channel stopped: no further pixel of the frame, the window emptied; the counts of the pixels computed go on to the
close, sent or not (R156). -/
def Channel.halt (ch : Channel) : Channel := { ch with rendering := false, ready := [], window := [] }

/-- The clipped pixels among those computed and not sent. -/
def Channel.unsentClips (ch : Channel) : Nat := ch.ready.countP ReadyPixel.clipped

/-- The counts of the frame that ends closed; a pixel that the output frame start drops unsent counts as neither late nor
clipped (R17, R157, R159). -/
def Channel.close (ch : Channel) : Channel :=
  { ch with
    clipLast := ch.clipRunning - ch.unsentClips
    clipRunning := 0
    lateLast := ch.lateRunning
    lateRunning := 0
    lateLine := none }

/-- A new frame begun, rendering or not (R156). -/
def Channel.begin (ch : Channel) (rendering : Bool) : Channel :=
  { ch with rendering := rendering, nextPixel := 0, ready := [], window := [] }

/-- The controls latched from a record (R160). -/
def Channel.latch (ch : Channel) (record : List Byte) : Channel :=
  { ch with mode := modeOf (field record 0x00 1), flat := flatOf record }

/-- Whether an enabled channel renders in the frame that begins: the device is RUNNING (a start taken in STOPPING begins
the stop frame or ends the run) and its port is UP (R156, R163). -/
def rendersNow (s : State) (c : Fin 6) : Bool :=
  decide (s.device.state = .running) &&
    match s.layout.portOf c with
    | none => false
    | some p => decide ((s.ports.get p).state = .up)

/-- The latch of an enabled channel's controls (R160). -/
def latchControls (c : Fin 6) (s : State) : State :=
  if s.layout.isEnabled c then
    modifyChannel c (fun ch => ch.latch (s.controlBytes (controlOffset c) controlBytes))
      (afterControlRead (controlOffset c) controlBytes s)
  else s

/-- The close of a channel's counts, with a CHANNEL notice for a late-line count above 0 (R17, R159, R165). -/
def closeCounts (c : Fin 6) (s : State) : State :=
  raiseIf (decide (0 < (s.channels.get c).lateRunning)) .channel (modifyChannel c Channel.close s)

/-- A channel's response to an output frame start: counts closed, controls latched, the new frame begun (R17, R156, R159,
R160). -/
def channelAtFrameStart (c : Fin 6) (s : State) : State :=
  modifyChannel c (fun ch => ch.begin (rendersNow s c)) (latchControls c (closeCounts c s))

/-- Every channel's response to an output frame start, in the order 0 to 5 (log 48). -/
def framesBegun (s : State) : State := (allOf 6).foldl (fun t c => channelAtFrameStart c t) s

/-- Every channel's fetcher requests its next row where it may (R156). -/
def requestRows (s : State) : State :=
  s.setChannels (Arr.build (fun c =>
    { s.channels.get c with window := request s c (s.channels.get c).window }))

/-- The channels' and ports' response to an output frame start: every raster begins again, and the channels that render
request their first rows (R156, R157). The channels read their controls, and take the MEMORY faults of these reads, in the
order 0 to 5 (DESIGN CHOICE, log 48). -/
def channelsAtFrameStart (s : State) : State :=
  let begun := requestRows (framesBegun s)
  begun.setPorts (begun.ports.map (fun port => { port with position := 0 }))

end Sys2Proof.Machine
end

