-- ==== Sys2Proof/Machine/Ports.lean ====
section
/-! DEFINITION. The projector link ports (08): presence filter, link states, training, start and stop, and the sample tick,
with the commands PRESENCE_RISE, PRESENCE_FALL, LOSS_OF_LOCK, TRAINING_DONE, ATTEMPT_TIMER_EXPIRY, RETRY_TIMER_EXPIRY
and SAMPLE_TICK. -/

namespace Sys2Proof.Machine

/-! ## Link states (R151, R152, R165) -/

/-- Whether a port works: in DOWN, TRAINING or UP (R150, R155). -/
def LinkState.works : LinkState → Bool
  | .off => false
  | .down => true
  | .training => true
  | .up => true

/-- The channel of a port stopped (R156). -/
def stopChannelOf (p : Fin 6) (s : State) : State :=
  match s.layout.channelOf p with
  | none => s
  | some c => modifyChannel c Channel.halt s

/-- A port that leaves UP stops its channel (R156). -/
def leaveUp (before : LinkState) (p : Fin 6) (s : State) : State :=
  if before = .up ∧ (s.ports.get p).state ≠ .up then stopChannelOf p s else s

/-- A port changed: a change of its link state raises a CHANNEL notice while the device is RUNNING or STOPPING, a port that
leaves UP stops its channel, and the trigger lines that select the port's source recompute (R105, R151, R156, R165). -/
def changePort (p : Fin 6) (f : Port → Port) (s : State) : State :=
  let before := (s.ports.get p).state
  let t := modifyPort p f s
  let changed := decide ((t.ports.get p).state ≠ before)
  settleAlt s (leaveUp before p (raiseIf (changed && s.working) .channel t))

/-- The start of a training attempt, under the next number (R152, log 38). -/
def Port.startAttempt (port : Port) : Port :=
  { port with
    state := .training
    phase := some .attempt
    attempt := port.attempt + 1
    attemptTimer := Config.attemptTicks }

/-- The entry to DOWN; no attempt goes on (R151, R152; the timers keep their values, log 33). -/
def Port.goDown (port : Port) (failures : Nat) : Port :=
  { port with state := .down, phase := none, failures := failures }

/-- The end of an attempt with success (R152). -/
def Port.succeed (port : Port) : Port := { port with state := .up, phase := none, failures := 0 }

/-- The end of an attempt with failure: a retry is scheduled, or at the third the port becomes DOWN (R152). -/
def Port.fail (port : Port) : Port :=
  if port.failures + 1 < 3 then
    { port with failures := port.failures + 1, phase := some .retryWait, retryTimer := Config.retryTicks }
  else port.goDown 3

/-- Whether an attempt is in progress at a port. -/
def Port.attempting (port : Port) : Bool := decide (port.state = .training ∧ port.phase = some .attempt)

/-- Whether a failure now would be the third (R153). -/
def Port.lastChance (port : Port) : Bool := decide (3 ≤ port.failures + 1)

/-- A failed attempt: at the third failure a LINK fault is taken, its detail the port number (R152, R153). -/
def failAttempt (p : Fin 6) (s : State) : State :=
  let failed := changePort p Port.fail s
  if (s.ports.get p).lastChance then takeFault .link (BitVec.ofNat 32 p.val) failed else failed

/-! ## The presence filter (R150) -/

/-- A sample of the presence line in DOWN, TRAINING or UP (R150): the run count rises to 100, at which the filtered presence
is about to take the sample, which PRESENCE_RISE or PRESENCE_FALL does. -/
def Port.sample (port : Port) (line : Bool) : Port :=
  if port.state.works then
    { port with
      presenceLine := line
      presenceRun :=
        if line = port.presence then 0 else min (port.presenceRun + 1) Config.presenceSamples }
  else port

/-- Whether the filtered presence is about to change (R150). -/
def Port.presenceDue (port : Port) : Bool :=
  port.state.works && decide (port.presenceRun = Config.presenceSamples)

/-- The filtered presence takes the sample (R150). -/
def Port.takePresence (port : Port) (presence : Bool) : Port := { port with presence := presence, presenceRun := 0 }

/-- The effect of a presence rise on a port (R151). -/
def Port.rise (port : Port) : Port :=
  match port.state with
  | .down => (port.takePresence true).startAttempt
  | .off => port.takePresence true
  | .training => port.takePresence true
  | .up => port.takePresence true

/-- A presence rise where one is due (R150, R151). -/
def presenceRise (p : Fin 6) (s : State) : State :=
  if (s.ports.get p).presenceDue ∧ (s.ports.get p).presence = false then changePort p Port.rise s else s

/-- A presence fall where one is due: the port becomes DOWN with failures 0 (R150, R151). -/
def presenceFall (p : Fin 6) (s : State) : State :=
  if (s.ports.get p).presenceDue ∧ (s.ports.get p).presence = true then
    changePort p (fun port => (port.takePresence false).goDown 0) s
  else s

/-- The expiry of the attempt timer, where it has reached 0: the attempt ends with failure (R152). -/
def attemptExpiry (p : Fin 6) (s : State) : State :=
  if (s.ports.get p).attempting ∧ (s.ports.get p).attemptTimer = 0 then failAttempt p s else s

/-- The expiry of the retry timer, where it has reached 0: a new attempt starts (R152). -/
def retryExpiry (p : Fin 6) (s : State) : State :=
  if (s.ports.get p).state = .training ∧ (s.ports.get p).phase = some .retryWait ∧ (s.ports.get p).retryTimer = 0 then
    changePort p Port.startAttempt s
  else s

/-! ## The commands -/

/-- PRESENCE_RISE: with no rise due nothing happens (R150, R151; log 4, log 9). -/
def execPresenceRise (p : Fin 6) (s : State) : Result := .next (presenceRise p s)

/-- PRESENCE_FALL: with no fall due nothing happens (R150, R151; log 4, log 9). -/
def execPresenceFall (p : Fin 6) (s : State) : Result := .next (presenceFall p s)

/-- LOSS_OF_LOCK: in UP an attempt starts at once; in every other state it is ignored (R151, R155). -/
def execLossOfLock (p : Fin 6) (s : State) : Result :=
  if (s.ports.get p).state = .up then .next (changePort p Port.startAttempt s) else .next s

/-- TRAINING_DONE of the attempt of a number: it ends the attempt in progress; that of an attempt that was abandoned or has
ended is discarded (R151, R152, R155; log 38). -/
def execTrainingDone (p : Fin 6) (result : TrainingResult) (s : State) : Result :=
  if (s.ports.get p).attempting ∧ (s.ports.get p).attempt = result.attempt then
    .next (if result.success then changePort p Port.succeed s else failAttempt p s)
  else .next s

/-- ATTEMPT_TIMER_EXPIRY: with no attempt timer at 0 nothing happens (R152; log 4, log 9). -/
def execAttemptTimerExpiry (p : Fin 6) (s : State) : Result := .next (attemptExpiry p s)

/-- RETRY_TIMER_EXPIRY: with no retry timer at 0 nothing happens (R152; log 4, log 9). -/
def execRetryTimerExpiry (p : Fin 6) (s : State) : Result := .next (retryExpiry p s)

/-! ## The sample tick (R102, R108, R150, R152) -/

/-- The timers of training after a sample tick (R152). -/
def Port.tickTimers (port : Port) : Port :=
  if port.state = .training then
    match port.phase with
    | some .attempt => { port with attemptTimer := port.attemptTimer - 1 }
    | some .retryWait => { port with retryTimer := port.retryTimer - 1 }
    | none => port
  else port

/-- The events of a line that the tick before made due (R103, R108). -/
def settleLine (l : Fin 4) (s : State) : State := holdOffExpiry l (filterChange l s)

/-- The events of a port that the tick before made due (R150, R152). -/
def settlePort (p : Fin 6) (s : State) : State := retryExpiry p (attemptExpiry p (presenceFall p (presenceRise p s)))

/-- The events of the tick before that have not come yet come first: each is taken at its own tick, lines before ports; the
edges they pass are of that one moment (R110, log 9). -/
def settleTick (s : State) : State :=
  joinMoment s.triggers.edges.length
    ((allOf 6).foldl (fun t p => settlePort p t) ((allOf 4).foldl (fun t l => settleLine l t) s))

/-- The trigger lines at a sample tick: while the run mark is set each samples its pin and counts its hold-off (R102, R103,
R108). -/
def tickLines (pins : BitVec 4) (s : State) : State :=
  if s.triggers.runMark then
    s.setTriggers { s.triggers with
      lines := Arr.build (fun l => ((s.triggers.lines.get l).sample (pins.getLsbD l.val)).tickHoldOff) }
  else s

/-- The ports at a sample tick: presence sampled, training timers counted (R150, R152). -/
def tickPorts (presence : BitVec 6) (s : State) : State :=
  s.setPorts (Arr.build (fun p => ((s.ports.get p).sample (presence.getLsbD p.val)).tickTimers))

/-- SAMPLE_TICK with the levels of the pins and of the presence lines (R102, R103, R108, R150, R152; log 9). -/
def execSampleTick (pins : BitVec 4) (presence : BitVec 6) (s : State) : Result :=
  .next (tickPorts presence (tickLines pins (settleTick s)))

/-! ## Start and stop (R155) -/

/-- A used port's entry to DOWN at START (R155). -/
def Port.enterDown (port : Port) : Port :=
  { port with
    state := .down
    presence := false
    presenceRun := 0
    failures := 0
    phase := none
    attemptTimer := 0
    retryTimer := 0 }

/-- Every used port enters DOWN at START; no notice is raised (R155). -/
def startPorts (s : State) : State :=
  s.setPorts (Arr.build (fun p => if s.layout.used p then (s.ports.get p).enterDown else s.ports.get p))

/-- A port's entry to OFF at the end of a STOP: failures and filtered presence are kept (R155). -/
def Port.turnOff (port : Port) : Port := { port with state := .off, phase := none }

/-- Every port becomes OFF at the end of a STOP, each change raising a CHANNEL notice (R155, R165). -/
def endPorts (s : State) : State :=
  raiseIf (s.ports.toList.any (fun port => decide (port.state ≠ .off))) .channel
    (s.setPorts (s.ports.map Port.turnOff))

/-- A reset of the ports; the presence lines keep their levels (log 25), and the attempts their numbers (log 38) (R149,
R155). -/
def clearedPorts (ports : Arr 6 Port) : Arr 6 Port :=
  ports.map (fun port => resetPort port.presenceLine port.attempt)

end Sys2Proof.Machine
end

