-- ==== Sys2Proof/Machine/Timing.lean ====
section
/-! DEFINITION. The Frame Timing Generator (07): periods, placement, lock, holdover. -/

namespace Sys2Proof.Machine

namespace Timing

/-- When the next output frame start comes: at the pending placement, else at the next scheduled start (R135). -/
def nextStart (t : Timing) : Option Nat :=
  match t.pendingPlacement with
  | some p => some p
  | none => t.nextScheduled

/-- Whether output frame starts are issued: in every timing state but STOPPED (R135). -/
def issues (t : Timing) : Bool := decide (t.state ≠ .stopped)

/-- Whether an input period from `last` to `now` is good: |I − P| ≤ floor(P/256) (R137). -/
def goodPeriod (t : Timing) (last now : Nat) : Bool :=
  let i : Int := (now : Int) - last
  decide (|i - t.period| ≤ (t.period / 256 : Nat))

/-- Whether the input frame start at `now` ends a good period; an unmeasured first start does not (R137, R138). -/
def endsGood (t : Timing) (now : Nat) : Bool :=
  match t.latestInput with
  | none => false
  | some last => t.goodPeriod last now

/-- The measurement of an input frame start: a good period becomes M, and its time is recorded (R137). -/
def measure (t : Timing) (now : Nat) : Timing :=
  { t with
    measured := if t.endsGood now then now - t.latestInput.getD 0 else t.measured
    latestInput := some now }

/-- The missing-start deadline armed from an input frame start: M + floor(M/2) after it (R143). -/
def arm (t : Timing) (now : Nat) : Timing := { t with deadline := some (now + (t.measured + t.measured / 2)) }

/-- Entry to ACQUIRE (R139). -/
def enterAcquire (t : Timing) (now : Nat) : Timing :=
  { t with
    state := .acquire
    nextScheduled := none
    goodRun := 1
    holdoverCount := 0 }.arm now

/-- The placement test (R140): the start at `now` places the next output frame start L ticks after itself,
unless one is pending or the frame in progress would last less than floor(P/2). -/
def place (t : Timing) (now : Nat) : Timing :=
  match t.pendingPlacement, t.latestStart with
  | some _, _ => t
  | none, none => t
  | none, some s =>
      if s + t.period / 2 ≤ now + t.latency then { t with pendingPlacement := some (now + t.latency) } else t

/-- Whether a placement falls at its own input frame start, with L = 0 (R140). -/
def placedNow (t : Timing) (now : Nat) : Bool := decide (t.pendingPlacement = some now) && decide (t.latency = 0)

/-- The cadence of HOLDOVER: M, or P when H is 0 and FREE is entered instead (R144). -/
def cadence (t : Timing) : Nat := if t.holdoverLimit = 0 then t.period else t.measured

/-- Entry to HOLDOVER, or to FREE when H is 0, at `now`: a pending placement is kept, else the next start is
scheduled one cadence after the latest if that lies after the entry (R144, log 22). -/
def leaveLock (t : Timing) (now : Nat) : Timing :=
  { t with
    state := if t.holdoverLimit = 0 then .free else .holdover
    deadline := none
    goodRun := 0
    holdoverCount := 0
    nextScheduled :=
      match t.pendingPlacement, t.latestStart with
      | some _, _ => none
      | none, none => some (now + t.cadence)
      | none, some s => if now < s + t.cadence then some (s + t.cadence) else none }

/-- Whether that entry issues the output frame start at once: nothing pending, and one cadence after the latest
start lies at or before the entry (R144). -/
def overdue (t : Timing) (now : Nat) : Bool :=
  match t.pendingPlacement, t.latestStart with
  | some _, _ => false
  | none, none => false
  | none, some s => decide (s + t.cadence ≤ now)

/-- Counting toward lock in ACQUIRE (R141). -/
def countRun (t : Timing) (good : Bool) : Timing :=
  if good then
    let n := t.goodRun + 1
    if Config.lockPeriods ≤ n then { t with state := .locked, goodRun := Config.lockPeriods }
    else { t with goodRun := n }
  else { t with goodRun := 0 }

/-- The generator's own response to an input frame start at `now`, after which an output frame start may be
due at once (`startsNow`) (R136 to R144). -/
def onInput (t : Timing) (now : Nat) : Timing :=
  let good := t.endsGood now
  let m := t.measure now
  match t.state with
  | .stopped => t
  | .free => if good && decide (t.lockMode = .follow) then m.enterAcquire now else m
  | .acquire => ((m.countRun good).arm now).place now
  | .locked => if good then (m.arm now).place now else m.leaveLock now
  | .holdover => if good then m.enterAcquire now else m

/-- Whether the input frame start issues an output frame start at its own event: its own placement with L = 0
(R140), or an overdue start at entry to HOLDOVER (R144). -/
def startsNow (t : Timing) (now : Nat) : Bool :=
  let good := t.endsGood now
  let m := t.measure now
  match t.state with
  | .stopped => false
  | .free => false
  | .acquire => (t.onInput now).placedNow now
  | .locked => if good then (t.onInput now).placedNow now else m.overdue now
  | .holdover => false

/-- The generator's part of an output frame start at `now` (R135, R138, R144). -/
def startAt (t : Timing) (now : Nat) : Timing :=
  let base := { t with frame := t.frame + 1, latestStart := some now, pendingPlacement := none, nextScheduled := none }
  match t.state with
  | .stopped => base
  | .acquire => base
  | .locked => base
  | .free => { base with nextScheduled := some (now + t.period) }
  | .holdover =>
      let n := t.holdoverCount + 1
      if n = t.holdoverLimit then
        { base with state := .free, holdoverCount := n, nextScheduled := some (now + t.period) }
      else { base with holdoverCount := n, nextScheduled := some (now + t.measured) }

/-- Entry to STOPPED at the end of a STOP (R147). -/
def stop (t : Timing) : Timing :=
  { t with
    state := .stopped
    nextScheduled := none
    pendingPlacement := none
    deadline := none
    latestInput := none }

/-- Entry to FREE at START, with the profile's values latched (R147). -/
def begin (t : Timing) (h : Header) (now : Nat) : Timing :=
  { t with
    state := .free
    period := h.period
    lockMode := if h.lockMode = 1 then .follow else .freeOnly
    latency := h.latency
    holdoverLimit := h.holdoverLimit
    measured := 0
    latestInput := none
    pendingPlacement := none
    goodRun := 0
    holdoverCount := 0
    deadline := none
    latestStart := some now
    nextScheduled := some (now + h.period) }

end Timing

/-- The generator's state replaced, with a TIMING notice when its timing state changes (R146). -/
def setTimingNoticed (t : Timing) (s : State) : State :=
  raiseIf (decide (t.state ≠ s.timing.state)) .timing (s.setTiming t)

end Sys2Proof.Machine
end

