-- ==== Sys2Proof/Machine/FrameStart.lean ====
section
/-! DEFINITION. The output frame start as every block takes it, with the commands INPUT_FRAME_START, OUTPUT_FRAME_START and
MISSING_START_DEADLINE (R135, R143, R182, R188). -/

namespace Sys2Proof.Machine

/-- The fault acknowledgement at an output frame start: fault_ack is read, and the record emptied where it matches (R192). -/
def acknowledgeFault (s : State) : State :=
  let ack := leNat (s.controlBytes faultAckOffset 2)
  let read := afterControlRead faultAckOffset 2 s
  read.setStatus { read.status with fault := read.status.fault.acknowledge ack }

/-- Whether the output frame start that comes is the second of a STOP (R182). -/
def State.ending (s : State) : Bool := decide (s.device.state = .stopping ∧ s.device.stopCount = 1)

/-- An output frame start counted while STOPPING (R182). -/
def countStop (s : State) : State :=
  if s.device.state = .stopping then s.setDevice { s.device with stopCount := s.device.stopCount + 1 } else s

/-- The entry to IDLE at the end of a STOP, with the changes of R182. -/
def endStop (s : State) : State :=
  let stopped := setTimingNoticed s.timing.stop s
  let bays := endBays (endPorts stopped)
  let captured := clearQuarantine (bays.setCapture bays.capture.disable)
  raiseNotice .device (captured.setDevice { captured.device with state := .idle, stopCount := 0 })

/-- The Bay Controller's part, while RUNNING (R77). -/
def baysPart (s : State) : State := if s.device.state = .running then baysAtFrameStart s else s

/-- The trigger latch, and the passed edges that the Bay Controller takes before its response to the start (R100, R110). -/
def triggersPart (early : List (Fin 4)) (s : State) : State := early.foldl (fun t l => takeEdge l t) (latchSetups s)

/-- The blocks' responses to an output frame start, after the generator's own and the stop count (R100, R110, R77, R124,
R160, R182; the order of blocks, log 31). The start that ends a STOP has no handoff (R132). -/
def blocksAtFrameStart (ending : Bool) (early : List (Fin 4)) (s : State) : State :=
  let bays := baysPart (triggersPart early s)
  if ending then endStop (channelsAtFrameStart bays) else channelsAtFrameStart (captureAtFrameStart bays)

/-- The output frame start at tick `now`: the generator's part, the stop count, every block's response, the fault
acknowledgement before or after them (R192, log 10), and the snapshot when the event is complete (R135, R188). No event of
another block comes between the responses and the gathering (DESIGN CHOICE, log 49). -/
def issueFrameStart (now : Nat) (order : StartOrder) (s : State) : State :=
  let counted := countStop (setTimingNoticed (s.timing.startAt now) s)
  let first := if order.ackFirst then acknowledgeFault counted else counted
  let responded := blocksAtFrameStart s.ending order.early first
  snapshot (if order.ackFirst then responded else acknowledgeFault responded)

/-- An output frame start where one is due. -/
def issueIf (due : Bool) (now : Nat) (order : StartOrder) (s : State) : State :=
  if due then issueFrameStart now order s else s

/-- OUTPUT_FRAME_START: the next start comes, at the time State holds for it; with none scheduled nothing happens
(R135; log 3, log 4). -/
def execOutputFrameStart (order : StartOrder) (s : State) : Result :=
  match s.timing.nextStart with
  | none => .next s
  | some now => .next (issueIf s.timing.issues now order s)

/-- INPUT_FRAME_START at tick `now`: the Capture Unit and the generator respond, and an output frame start may come at the
same event, after both (R120, R136 to R144; log 10; that the Capture Unit's fill comes before its handoff, log 41). -/
def execInputFrameStart (now : Nat) (order : StartOrder) (s : State) : Result :=
  let captured := changeCapture Capture.onInput s
  .next (issueIf (s.timing.startsNow now) now order (setTimingNoticed (s.timing.onInput now) captured))

/-- Whether the missing-start deadline stands: in ACQUIRE and LOCKED (R143). -/
def Timing.awaits (t : Timing) : Option Nat :=
  if t.state = .acquire ∨ t.state = .locked then t.deadline else none

/-- MISSING_START_DEADLINE, at the time State holds for it: the generator leaves ACQUIRE or LOCKED, and an overdue output
frame start comes at once; with no deadline standing nothing happens (R143, R144; log 3, log 4). -/
def execMissingStartDeadline (order : StartOrder) (s : State) : Result :=
  match s.timing.awaits with
  | none => .next s
  | some d => .next (issueIf (s.timing.overdue d) d order (setTimingNoticed (s.timing.leaveLock d) s))

end Sys2Proof.Machine
end

