-- ==== Sys2Proof/Machine/Device.lean ====
section
/-! DEFINITION. The Device Controller and the Link Endpoint (10, 09 R167): START, STOP, validation, resets, register writes
and host accesses. -/

namespace Sys2Proof.Machine

/-! ## Resets (R183, R184) -/

/-- A device reset: every block takes its reset values at once; the Link Endpoint, the source link, the lines from outside and
the contents of frame memory stay (R183, R97, R113, R133, R155, R170, R175; log 24, log 25). In STARTING too every line
and the Capture Unit take their reset values (R99, R113, R116, R128, R133), though R111 and R131 speak of them as left
(log 40). -/
def deviceReset (s : State) : State :=
  { pending := s.pending
    device := resetDevice
    layout := resetLayout
    link := s.link
    timing := resetTiming
    source := s.source
    capture := resetCapture
    bays := resetBays
    reader := resetReader
    store := resetStore
    channels := Arr.replicate 6 resetChannel
    ports := clearedPorts s.ports
    triggers := clearedTriggers s.triggers
    arbiter := resetArbiter
    memory := { s.memory with corrected := 0 }
    status := resetStatus }

/-- Power-on reset: a device reset, every register at its reset value, and frame memory as found (R184; log 2, log 8). -/
def powerOn (found : FoundMemory) (s : State) : State :=
  ((deviceReset s).setLink resetLink).setMemory (Memory.ofFound found)

/-- A PCI Express link reset: NOTICE and NOTICE_ENABLE cleared, held accesses discarded, and with them those beyond the 32
held that wait on the link (R184, R170; log 8). -/
def linkReset (s : State) : State := s.setLink { s.link with notice := 0, noticeEnable := 0, queue := [] }

/-! ## START (R177, R179) -/

/-- AREA_BASE in 64 KiB units (10.2). -/
def State.areaUnits (s : State) : Nat := s.link.areaBase.toNat / 65536

/-- The requests of the reads that START makes, in their order (R177). -/
def startRequests (area : Nat) : List StatusRequest :=
  startBlocks.map (fun b => .startRead b (area + b.place.1) b.place.2 true)

/-- The refusal at the START event itself (R177, R179). -/
def refuseArea (s : State) : State :=
  raiseNotice .device (s.setDevice { s.device with refusal := .area, validatedArea := none })

/-- The reads of a START handed to the status writer (R177). -/
def handReads (area : Nat) (s : State) : State := handRequests (startRequests area) s

/-- Entry to STARTING with the area tested (R177). -/
def enterStarting (area : Nat) (s : State) : State :=
  handReads area
    (snapshot
      (raiseNotice .device
        (s.setDevice { s.device with state := .starting, validatedArea := some area, returned := [] })))

/-- START, taken while the device is IDLE (R177). -/
def takeStart (s : State) : State :=
  if s.device.state = .idle then
    if Config.greatestAreaBase < s.areaUnits then refuseArea s else enterStarting (s.areaUnits * 65536) s
  else s

/-! ## STOP (R179, R181) -/

/-- A read of a START whose data is no longer wanted (R179). -/
def StatusRequest.forget : StatusRequest → StatusRequest
  | .write cells => .write cells
  | .startRead block address length _ => .startRead block address length false

/-- The return from STARTING to IDLE: the reads in flight are discarded when they return (R179). -/
def leaveStarting (s : State) : State :=
  let forgotten := s.setStatus { s.status with queue := s.status.queue.map StatusRequest.forget }
  snapshot (raiseNotice .device (forgotten.setDevice { s.device with state := .idle, returned := [] }))

/-- Entry to STOPPING (R181, R95, R112). -/
def enterStopping (s : State) : State :=
  let entered := s.setDevice { s.device with state := .stopping, stopCount := 0 }
  snapshot (raiseNotice .device (stopTriggers (stopBays entered)))

/-- STOP, by device state (R181). -/
def takeStop (s : State) : State :=
  match s.device.state with
  | .idle => s
  | .starting => leaveStarting s
  | .running => enterStopping s
  | .stopping => s

/-! ## Validation (R178 to R180) -/

/-- The bytes that a START read of a block; empty where it has not returned. -/
def readBlock (returned : List (StartBlock × List Byte)) (b : StartBlock) : List Byte :=
  match returned.find? (fun r => decide (r.1 = b)) with
  | none => []
  | some r => r.2

/-- The refusal of a START at validation-done (R179). -/
def refuseProfile (reason : StartRefusal) (s : State) : State :=
  snapshot (raiseNotice .device (s.setDevice { s.device with state := .idle, refusal := reason, returned := [] }))

/-- The profile as the Edition Checker, the channels and the ports latch it (R180). -/
def layoutOf (h : Header) : Layout where
  wr := h.wr
  hr := h.hr
  arenaLow := h.arenaLow
  arenaHigh := h.arenaHigh
  enabled := BitVec.ofNat 6 h.mask
  portMap := h.portMap

/-- The profile latched by its users (R180, R170). -/
def latchProfile (h : Header) (s : State) : State :=
  (s.setLayout (layoutOf h)).setArbiter { s.arbiter with exponent := h.exponent, share := 0, pointer := 5 }

/-- Entry to RUNNING at tick `now`, in the order of R180. -/
def enterRunning (now : Nat) (pins : BitVec 4) (h : Header) (returned : List (StartBlock × List Byte))
    (s : State) : State :=
  let accepted := latchProfile h (s.setDevice { s.device with refusal := .ok })
  let normal := normalise (fun b => parseBay (readBlock returned (.bay b))) accepted
  let ported := startPorts normal
  let captured := ported.setCapture (ported.capture.enable h ported.source.announcement)
  let lined := initialiseLines (fun l => parseSetup (readBlock returned (.setup l))) pins captured
  let running := lined.setDevice { lined.device with state := .running, returned := [] }
  snapshot (raiseNotice .device (setTimingNoticed (running.timing.begin h now) running))

/-- Whether the last read of a START has returned (R177). -/
def State.readsReturned (s : State) : Bool :=
  decide (s.device.state = .starting ∧ s.device.returned.length = startBlocks.length)

/-- VALIDATION_DONE at tick `now` with the pins as they stand: the header is judged, and the START is refused or the device
enters RUNNING; before the last read has returned nothing happens (R177 to R180; log 4). -/
def execValidationDone (now : Nat) (pins : BitVec 4) (s : State) : Result :=
  if s.readsReturned then
    let h := parseHeader (readBlock s.device.returned .header)
    match h.judge s.area with
    | .ok => .next (enterRunning now pins h s.device.returned s)
    | reason => .next (refuseProfile reason s)
  else .next s

/-! ## Register accesses (R185) -/

/-- A register access performed (R185). -/
def performRegister (a : RegisterAccess) (s : State) : State :=
  match a with
  | .start => takeStart s
  | .stop => takeStop s
  | .reset => deviceReset s
  | .areaBase w =>
      if s.device.state = .idle then s.setLink { s.link with areaBase := areaBaseValue w s.link.areaBase } else s
  | .notice w => s.setLink { s.link with notice := noticeValue w s.link.notice }
  | .noticeEnable w => s.setLink { s.link with noticeEnable := noticeEnableValue w s.link.noticeEnable }
  | .ignored => s

/-- An access behind those the link has delivered and the part has not performed (R167, R185). -/
def delay (a : LinkAccess) (s : State) : State := s.setLink { s.link with queue := s.link.queue ++ [a] }

/-- A register access delivered by the link: performed at once, or held behind the accesses delivered before it
(R185; log 7). -/
def deliver (a : RegisterAccess) (s : State) : State :=
  if s.link.queue = [] then performRegister a s else delay (.register a) s

/-- START from RUN_CONTROL (R177). -/
def execStart (s : State) : Result := .next (deliver .start s)

/-- STOP from RUN_CONTROL (R181). -/
def execStop (s : State) : Result := .next (deliver .stop s)

/-- RESET from RUN_CONTROL (R183). -/
def execReset (s : State) : Result := .next (deliver .reset s)

/-- AREA_BASE_WRITE (R185). -/
def execAreaBaseWrite (w : RegWrite) (s : State) : Result := .next (deliver (.areaBase w) s)

/-- NOTICE_CLEAR (R185, R186). -/
def execNoticeClear (w : RegWrite) (s : State) : Result := .next (deliver (.notice w) s)

/-- NOTICE_ENABLE_WRITE (R185, R187). -/
def execNoticeEnableWrite (w : RegWrite) (s : State) : Result := .next (deliver (.noticeEnable w) s)

/-- REGISTER_WRITE_IGNORED: a write of IDENT or RUN_STATUS (R185). -/
def execRegisterWriteIgnored (_ : ReadOnlyRegister) (_ : RegWrite) (s : State) : Result := .next (deliver .ignored s)

/-- POWER_ON_RESET (R184). -/
def execPowerOnReset (found : FoundMemory) (s : State) : Result := .next (powerOn found s)

/-- PCI_EXPRESS_LINK_RESET (R184). -/
def execPciExpressLinkReset (s : State) : Result := .next (linkReset s)

/-! ## Host accesses (R167) -/

/-- Whether an access runs past the last byte of frame memory (R167). -/
def pastEnd (address length : Nat) : Bool := decide (Config.frameMemoryBytes < address + length)

/-- HOST_WRITE: queued at the host link, and performed at its grant; an access past the end of the window faults, one of no
bytes does nothing (R167; log 26). -/
def execHostWrite (address : Nat) (data : List Byte) (s : State) : Result :=
  if pastEnd address data.length then .fault (.outsideFrameMemory address data.length)
  else if data = [] then .next s
  else .next (delay (.write address data) s)

/-- HOST_READ: as HOST_WRITE (R167; log 26). -/
def execHostRead (address length : Nat) (s : State) : Result :=
  if pastEnd address length then .fault (.outsideFrameMemory address length)
  else if length = 0 then .next s
  else .next (delay (.read address length []) s)

/-- Host requests held by the host link, of those delivered: the first 32 (R167). -/
def LinkAccess.isMemory : LinkAccess → Bool
  | .write _ _ => true
  | .read _ _ _ => true
  | .register _ => false

/-- Whether the Link Endpoint withholds link credit: it holds 32 host requests (R167). -/
def State.creditWithheld (s : State) : Bool :=
  decide (Config.hostRequests ≤ s.link.queue.countP LinkAccess.isMemory)

end Sys2Proof.Machine
end

