-- ==== Sys2Proof/Machine/Arbiter.lean ====
section
/-! DEFINITION. The Fetch Arbiter (09): who waits, who is granted, and what each requester's burst does, with the command
BURST_GRANT. -/

namespace Sys2Proof.Machine

/-! ## Who waits (R168) -/

/-- Whether the first access of the host link is one of frame memory. -/
def hostWaits : List LinkAccess → Bool
  | [] => false
  | a :: _ => a.isMemory

/-- Whether the capture writer waits: the pixel at the head of the FIFO has its slot (R122, R168). -/
def captureWaits : List FifoPixel → Bool
  | [] => false
  | p :: _ => p.slot.isSome

/-- Whether a requester waits (R168). -/
def waits (s : State) : Requester → Bool
  | .captureWriter => captureWaits s.capture.fifo
  | .fetcher c => (nextRow s c).isSome
  | .hostLink => hostWaits s.link.queue
  | .editionReader => s.reader.presented.isSome
  | .statusWriter => decide (s.status.queue ≠ [])

/-! ## The grant order (R169) -/

/-- The channels in the order after the round-robin pointer, up to the pointer itself (R169). -/
def channelsAfter (pointer : Fin 6) : List (Fin 6) :=
  (List.range 6).map (fun i => ⟨(pointer.val + 1 + i) % 6, Nat.mod_lt _ (by decide)⟩)

/-- The channel fetcher that is chosen, if one waits (R169). -/
def nextFetcher (s : State) : Option (Fin 6) :=
  (channelsAfter s.arbiter.pointer).find? (fun c => waits s (.fetcher c))

/-- Whether the share counter stands at 2^k (R169). -/
def Arbiter.shareFull (a : Arbiter) : Bool := decide (a.share = 2 ^ a.exponent)

/-- The requester that is granted the next burst (R169). -/
def nextGrant (s : State) : Option Requester :=
  if waits s .captureWriter then some .captureWriter
  else if waits s .editionReader && s.arbiter.shareFull then some .editionReader
  else
    match nextFetcher s with
    | some c => some (.fetcher c)
    | none =>
        if waits s .hostLink then some .hostLink
        else if waits s .editionReader then some .editionReader
        else if waits s .statusWriter then some .statusWriter
        else none

/-- The arbiter after a grant: the pointer and the share counter (R169). -/
def Arbiter.grantTo (a : Arbiter) : Requester → Arbiter
  | .fetcher c => { a with pointer := c, share := if a.shareFull then a.share else a.share + 1 }
  | .editionReader => { a with share := 0 }
  | .captureWriter => a
  | .hostLink => a
  | .statusWriter => a

/-! ## The capture writer's burst (R117, R122; log 12) -/

/-- The pixels at the head of the FIFO that one burst writes: those of one row that follow one another. -/
def pixelRun (slot : Fin 3) (row : Nat) : Nat → Nat → List FifoPixel → List FifoPixel
  | 0, _, _ => []
  | _ + 1, _, [] => []
  | most + 1, column, p :: rest =>
      if p.slot = some slot ∧ p.row = row ∧ p.column = column then p :: pixelRun slot row most (column + 1) rest
      else []

/-- The bytes of a canvas pixel with their addresses (R117). -/
def pixelCells (c : Capture) (slot : Fin 3) (p : FifoPixel) : List (Nat × Byte) :=
  placed (c.pixelAddress slot p.column p.row) (leBytes 4 (pixelWord p.codes))

/-- How many pixels a capture burst may write from an address: within the block and the size given, up to the end of a
word and at least to the end of the first one, so that a word is covered in part only at the end of a row (R168, R173; log 6,
log 12). -/
def pixelsInBurst (size address : Nat) : Nat :=
  let column := address / 4
  let most := min (size / 4) ((Config.burstBlock - address % Config.burstBlock) / 4)
  max (2 - column % 2) (most - (column + most) % 2)

/-- The capture writer's burst (R122). -/
def captureBurst (size : Nat) (s : State) : State :=
  match s.capture.fifo with
  | [] => s
  | p :: rest =>
      match p.slot with
      | none => s
      | some slot =>
          let most := pixelsInBurst size (s.capture.pixelAddress slot p.column p.row)
          let run := pixelRun slot p.row most p.column (p :: rest)
          afterWrite (run.flatMap (pixelCells s.capture slot))
            (s.setCapture { s.capture with fifo := (p :: rest).drop run.length })

/-! ## A channel fetcher's burst (R156, R172) -/

/-- A channel fetcher's burst: the next bytes of the row it reads, from column 0 upward (R156; log 6; the order of a row's
bytes is a DESIGN CHOICE, log 50). With the row whole the fetcher may request the next one. -/
def fetchBurst (size : Nat) (c : Fin 6) (s : State) : State :=
  match nextRow s c, s.capture.readingSlot with
  | some r, some slot =>
      let address := s.capture.pixelAddress slot 0 r.row + r.got.length
      let length := burstSize size address (4 * s.capture.wc - r.got.length)
      afterRead address length
        (requestRow c
          (modifyChannel c (fun ch => { ch with window := storeRow ch.window r (s.memory.readBytes address length) }) s))
  | _, _ => s

/-! ## The host link's burst (R167, R185) -/

/-- The host link's queue after an access is performed: the register accesses delivered next are performed (R185;
log 7). -/
def drain : List LinkAccess → State → State
  | .register a :: rest, s => drain rest (performRegister a (s.setLink { s.link with queue := rest }))
  | .write address data :: rest, s => s.setLink { s.link with queue := .write address data :: rest }
  | .read address length got :: rest, s => s.setLink { s.link with queue := .read address length got :: rest }
  | [], s => s.setLink { s.link with queue := [] }

/-- A burst of a host write: what lies in the block of its first byte; the rest waits in front (R167, R168). -/
def hostWriteBurst (address : Nat) (data : List Byte) (rest : List LinkAccess) (s : State) : State :=
  let piece := blockPiece address data.length
  let written := afterWrite (placed address (data.take piece)) s
  if data.length ≤ piece then drain rest written
  else written.setLink { written.link with queue := .write (address + piece) (data.drop piece) :: rest }

/-- A burst of a host read: as a host write; its data is returned when it is complete (R167, R168). -/
def hostReadBurst (address length : Nat) (got : List Byte) (rest : List LinkAccess) (s : State) : State :=
  let piece := blockPiece address length
  let data := got ++ s.memory.readBytes address piece
  let read := afterRead address piece s
  if length ≤ piece then
    drain rest (read.setLink { read.link with lastRead := some ⟨address - got.length, data⟩ })
  else read.setLink { read.link with queue := .read (address + piece) (length - piece) data :: rest }

/-- The host link's burst (R167). -/
def hostBurst (s : State) : State :=
  match s.link.queue with
  | [] => s
  | .register _ :: _ => s
  | .write address data :: rest => hostWriteBurst address data rest s
  | .read address length got :: rest => hostReadBurst address length got rest s

/-! ## The edition reader's burst (R59, R62, R66, R70) -/

/-- The Loader's writes made in the staging bank (R66). -/
def applyWrites (writes : List BankWrite) (s : State) : State :=
  s.setStore (s.store.modifyStaging (fun b => writes.foldl Bank.write b))

/-- The walk that has its read presented. -/
def EditionReader.walk (r : EditionReader) : Reader → Option Walk
  | .checker => r.checker
  | .loader => r.loader

/-- A walk put back, and the next read presented (R70). -/
def EditionReader.putBack (r : EditionReader) (user : Reader) (w : Walk) : EditionReader :=
  match user with
  | .checker => ({ r with checker := some w, presented := none } : EditionReader).present
  | .loader => ({ r with loader := some w, presented := none } : EditionReader).present

/-- The edition reader's burst for one of its users: the bytes are taken by the walk, and the Loader's writes are made
(R59, R62, R66, R68). -/
def walkBurst (size : Nat) (user : Reader) (w : Walk) (job : ReadJob) (s : State) : State :=
  let length := burstSize size job.address job.left
  let result := w.onBurst s.layout (s.memory.readBytes job.address length) (readFails job.address length s)
  let read := afterRead job.address length s
  applyWrites result.2 (read.setReader (read.reader.putBack user result.1))

/-- The edition reader's burst (R70). -/
def editionBurst (size : Nat) (s : State) : State :=
  match s.reader.presented with
  | none => s
  | some user =>
      match s.reader.walk user with
      | none => s
      | some w =>
          match w.read with
          | none => s
          | some job => walkBurst size user w job s

/-! ## The status writer's burst (R168, R177, R189) -/

/-- A read of a START that has returned, kept while it is wanted (R177, R179). -/
def takeReturn (block : StartBlock) (bytes : List Byte) (wanted : Bool) (s : State) : State :=
  if wanted then s.setDevice { s.device with returned := s.device.returned ++ [(block, bytes)] } else s

/-- The status writer's burst: the request it took first (R168). -/
def statusBurst (s : State) : State :=
  match s.status.queue with
  | [] => s
  | .write cells :: rest => afterWrite cells (s.setStatus { s.status with queue := rest })
  | .startRead block address length wanted :: rest =>
      takeReturn block (s.memory.readBytes address length) wanted
        (afterRead address length (s.setStatus { s.status with queue := rest }))

/-! ## The command -/

/-- The burst of a requester, performed whole (R168). -/
def performBurst (size : Nat) (r : Requester) (s : State) : State :=
  match r with
  | .captureWriter => captureBurst size s
  | .fetcher c => fetchBurst size c s
  | .hostLink => hostBurst s
  | .editionReader => editionBurst size s
  | .statusWriter => statusBurst s

/-- BURST_GRANT: the next requester is granted and its burst performed; with none waiting nothing happens. `size` is the
burst length that the requester asks for where the spec leaves it (R168, R169; log 5, log 6). -/
def execBurstGrant (size : Nat) (s : State) : Result :=
  match nextGrant s with
  | none => .next s
  | some r => .next (performBurst size r (s.setArbiter (s.arbiter.grantTo r)))

end Sys2Proof.Machine
end

