-- ==== Sys2Proof/Machine/Dispatch.lean ====
section
/-! DEFINITION. The meaning of every command, one arm each. -/

namespace Sys2Proof.Machine

def exec (i : Instr) (s : State) : Host.Outcome State Fault Refusal :=
  match i with
  | .start => Sys2Proof.Machine.execStart s
  | .stop => Sys2Proof.Machine.execStop s
  | .reset => Sys2Proof.Machine.execReset s
  | .areaBaseWrite w => Sys2Proof.Machine.execAreaBaseWrite w s
  | .noticeClear w => Sys2Proof.Machine.execNoticeClear w s
  | .noticeEnableWrite w => Sys2Proof.Machine.execNoticeEnableWrite w s
  | .registerWriteIgnored r w => Sys2Proof.Machine.execRegisterWriteIgnored r w s
  | .powerOnReset found => Sys2Proof.Machine.execPowerOnReset found s
  | .pciExpressLinkReset => Sys2Proof.Machine.execPciExpressLinkReset s
  | .hostWrite address data => Sys2Proof.Machine.execHostWrite address data s
  | .hostRead address length => Sys2Proof.Machine.execHostRead address length s
  | .presenceChange format => Sys2Proof.Machine.execPresenceChange format s
  | .formatAnnouncement format => Sys2Proof.Machine.execFormatAnnouncement format s
  | .inputFrameStart time order => Sys2Proof.Machine.execInputFrameStart time order s
  | .line pixels => Sys2Proof.Machine.execLine pixels s
  | .fillDone => Sys2Proof.Machine.execFillDone s
  | .outputFrameStart order => Sys2Proof.Machine.execOutputFrameStart order s
  | .missingStartDeadline order => Sys2Proof.Machine.execMissingStartDeadline order s
  | .validationDone time pins => Sys2Proof.Machine.execValidationDone time pins s
  | .checkDone => Sys2Proof.Machine.execCheckDone s
  | .loadDone => Sys2Proof.Machine.execLoadDone s
  | .passedEdge => Sys2Proof.Machine.execPassedEdge s
  | .filteredLevelChange l => Sys2Proof.Machine.execFilteredLevelChange l s
  | .holdOffExpiry l => Sys2Proof.Machine.execHoldOffExpiry l s
  | .presenceRise p => Sys2Proof.Machine.execPresenceRise p s
  | .presenceFall p => Sys2Proof.Machine.execPresenceFall p s
  | .lossOfLock p => Sys2Proof.Machine.execLossOfLock p s
  | .trainingDone p result => Sys2Proof.Machine.execTrainingDone p result s
  | .attemptTimerExpiry p => Sys2Proof.Machine.execAttemptTimerExpiry p s
  | .retryTimerExpiry p => Sys2Proof.Machine.execRetryTimerExpiry p s
  | .burstGrant size => Sys2Proof.Machine.execBurstGrant size s
  | .renderPixel c => Sys2Proof.Machine.execRenderPixel c s
  | .pixelDue p => Sys2Proof.Machine.execPixelDue p s
  | .sampleTick pins presence => Sys2Proof.Machine.execSampleTick pins presence s

end Sys2Proof.Machine
end

