-- ==== Sys2Proof/Safety.lean ====
section
/-! DEFINITION. What holds of the block at all times, in the terms claims use: the bounds the spec gives, each as a
property of one state. -/

namespace Sys2Proof.Machine

/-- The hard-wired bits of the registers read 0: AREA_BASE bits 15:0, NOTICE and NOTICE_ENABLE bits 31:7 (10.2). -/
def State.RegistersOk (s : State) : Prop :=
  s.link.areaBase &&& 0x0000FFFF#32 = 0 ∧ s.link.notice &&& 0xFFFFFF80#32 = 0 ∧ s.link.noticeEnable &&& 0xFFFFFF80#32 = 0

/-- Frame memory keeps its canonical form. -/
def State.MemoryOk (s : State) : Prop := s.memory.wf = true

/-- Where the bays stand: at most one LIVE, one CHECKING, one LOADING or STAGED, each the bay that the live bay number,
the Checker and the Loader name (R73, R76, R83, R88); no bay in work outside RUNNING (R95, R96). -/
structure State.BaysOk (s : State) : Prop where
  live : ∀ b, s.bayState b = .live ↔ s.bays.liveBay = some b
  checking : ∀ b, s.bayState b = .checking ↔ ∃ w, s.reader.checker = some w ∧ w.bay = b
  loading : ∀ b, s.bayState b = .loading ↔ ∃ w, s.reader.loader = some w ∧ w.bay = b
  oneLoad : ∀ a b, (s.bayState a).isLoad = true → (s.bayState b).isLoad = true → a = b
  quiet : s.device.state ≠ .running → ∀ b, s.bayState b ≠ .checking ∧ (s.bayState b).isLoad = false
  idle : s.device.state = .idle ∨ s.device.state = .starting → ∀ b, s.bayState b ≠ .ready ∧ s.bayState b ≠ .live

/-- Both banks are blank while the device is IDLE or STARTING (R28, R96). -/
def State.BanksOk (s : State) : Prop :=
  s.device.state = .idle ∨ s.device.state = .starting → s.store.bankA = blankBank ∧ s.store.bankB = blankBank

/-- The slots: at most one FILLING, one COMPLETE, one READING, and a FILLING slot just while a fill is in progress
(R118, R120, R123). -/
structure Capture.SlotsOk (c : Capture) : Prop where
  one : ∀ state a b, state ≠ .free → (c.slots.get a).state = state → (c.slots.get b).state = state → a = b
  filling : c.state = .capturing ↔ ∃ a, (c.slots.get a).state = .filling

/-- The line FIFO holds at most 32,768 pixels (R122). -/
def Capture.FifoOk (c : Capture) : Prop := c.fifo.length ≤ Config.fifoPixels

/-- The next output frame start lies at least floor(P/2) ticks after the latest, and the cadence of HOLDOVER is at least
floor(P/2) (R137, R140, R144). -/
structure Timing.SpacedOk (t : Timing) : Prop where
  started : t.state ≠ .stopped → t.latestStart.isSome
  spaced : ∀ s n, t.latestStart = some s → t.nextStart = some n → s + t.period / 2 ≤ n
  scheduled : ∀ s n, t.latestStart = some s → t.nextScheduled = some n → s + t.period / 2 ≤ n
  measured : t.state = .acquire ∨ t.state = .locked ∨ t.state = .holdover → t.period / 2 ≤ t.measured

/-- The generator is STOPPED just while the device is IDLE or STARTING (R134, R147, R180). -/
def State.ClockOk (s : State) : Prop :=
  s.timing.state = .stopped ↔ s.device.state = .idle ∨ s.device.state = .starting

/-- The trigger lines: the run mark stands just while the device is RUNNING; while it stands the combined level is the one of
the present levels, and a combined level that differs from the delivered level waits for a hold-off; while it is clear no
hold-off runs and no edge waits (R99, R106, R107, R112). -/
structure State.TriggersOk (s : State) : Prop where
  running : s.triggers.runMark = true ↔ s.device.state = .running
  combined : s.triggers.runMark = true → ∀ l, (s.triggers.lines.get l).combined = combinedNow l s
  waiting : s.triggers.runMark = true → ∀ l, (s.triggers.lines.get l).combined ≠ (s.triggers.lines.get l).delivered →
    (s.triggers.lines.get l).holdOffActive = true
  frozen : s.triggers.runMark = false → s.triggers.edges = [] ∧ ∀ l, (s.triggers.lines.get l).holdOffActive = false

/-- The port map is one-to-one over the enabled channels (R148). -/
def Layout.PortsOk (l : Layout) : Prop := ∀ c d p, l.portOf c = some p → l.portOf d = some p → c = d

/-- A rendering channel is enabled and its port is UP (R156); every port is OFF while the device is IDLE or STARTING
(R149, R155). -/
structure State.RenderingOk (s : State) : Prop where
  ports : s.layout.PortsOk
  off : s.device.state = .idle ∨ s.device.state = .starting → ∀ p, (s.ports.get p).state = .off
  up : ∀ c, (s.channels.get c).rendering = true → ∃ p, s.layout.portOf c = some p ∧ (s.ports.get p).state = .up

/-- Codes that lie in 0 to 1023. -/
def codesOk (codes : Codes) : Prop := codes.r ≤ 1023 ∧ codes.g ≤ 1023 ∧ codes.b ≤ 1023

/-- A bank whose encode entries lie in 0 to 1023 (R38). -/
def Bank.encodeOk (b : Bank) : Prop := ∀ c, ∀ e ∈ (b.channels.get c).encode, e ≤ 1023

/-- Every code that is held for sending, or that was sent last, lies in 0 to 1023, as do the values they come from
(R21, R38, R157, R160). -/
structure State.CodesOk (s : State) : Prop where
  bankA : s.store.bankA.encodeOk
  bankB : s.store.bankB.encodeOk
  flat : ∀ c, codesOk (s.channels.get c).flat
  ready : ∀ c, ∀ pixel ∈ (s.channels.get c).ready, codesOk pixel.codes
  sent : ∀ p, codesOk (s.ports.get p).sent

/-- The fault record: an occupied record holds a kind and a sequence number that is not 0; an empty one holds 0 in every
field but the sequence number (R190, R192). -/
structure FaultRecord.Ok (f : FaultRecord) : Prop where
  filled : f.occupied = true → f.sequence ≠ 0 ∧ f.kind.isSome
  cleared : f.occupied = false → f = { emptyFault with sequence := f.sequence }
  further : f.further ≤ Config.furtherFaultLimit

/-- The stop count is 0 or 1 while STOPPING and 0 in every other device state (R176, R182). -/
def Device.StopOk (d : Device) : Prop := if d.state = .stopping then d.stopCount ≤ 1 else d.stopCount = 0

/-- The share counter lies in 0 to 2^k (R170). -/
def Arbiter.ShareOk (a : Arbiter) : Prop := a.share ≤ 2 ^ a.exponent

/-- A port's counts lie in their ranges (R149). -/
structure Port.CountsOk (port : Port) : Prop where
  presenceRun : port.presenceRun ≤ 100
  failures : port.failures ≤ 3
  attemptTimer : port.attemptTimer ≤ 500
  retryTimer : port.retryTimer ≤ 1000

/-- The read-ahead window of a channel holds at most 130 rows (R156). -/
def Channel.WindowOk (ch : Channel) : Prop := ch.window.length ≤ Config.windowRows

/-! ## What a claim says is unchanged -/

/-- The parts of the state, as a frame names them. -/
inductive Part where
  | pending
  | device
  | layout
  | link
  | timing
  | source
  | capture
  | bays
  | reader
  | store
  | channels
  | ports
  | triggers
  | arbiter
  | memory
  | status
deriving DecidableEq, Repr

/-- Two states agree on a part. -/
def Part.same (s t : State) : Part → Prop
  | .pending => t.pending = s.pending
  | .device => t.device = s.device
  | .layout => t.layout = s.layout
  | .link => t.link = s.link
  | .timing => t.timing = s.timing
  | .source => t.source = s.source
  | .capture => t.capture = s.capture
  | .bays => t.bays = s.bays
  | .reader => t.reader = s.reader
  | .store => t.store = s.store
  | .channels => t.channels = s.channels
  | .ports => t.ports = s.ports
  | .triggers => t.triggers = s.triggers
  | .arbiter => t.arbiter = s.arbiter
  | .memory => t.memory = s.memory
  | .status => t.status = s.status

/-- Two states agree on every part but those listed. -/
def State.sameBut (changed : List Part) (s t : State) : Prop := ∀ p, p ∉ changed → p.same s t

/-! ## What a claim says is handed over -/

/-- The requests of a write of fields of a bay's record in the validated area; none without one (R75, R168). -/
def State.recordWrites (s : State) (b : Fin 8) (fields : List (Nat × Nat × Nat)) : List StatusRequest :=
  match s.device.validatedArea with
  | none => []
  | some area => writeRequests (fieldCells (area + (0x400 + 64 * b.val)) fields)

/-- The state's status writer and fault record with requests handed over behind those held. -/
def State.statusWith (s : State) (requests : List StatusRequest) : Status :=
  { s.status with queue := s.status.queue ++ requests }

end Sys2Proof.Machine
end

