-- ==== Sys2Proof/Certificates/Slice0/Obligations.lean ====
section
/-! DEFINITION. The claims about the block, one definition each, in the order of OBLIGATIONS.json. -/

open Sys2Proof Sys2Proof.Machine

/-! ## Steps and resets -/

/-- A step of a state with a command in front of its queue executes that command on the state with the rest of the
queue; on an empty queue it changes nothing, the model's choice (log 1). -/
def Obligations.StepRunsFrontCommand : Prop :=
  (∀ (c : Instr) (rest : List Instr) (s : State), s.pending = c :: rest → step s = exec c (s.setPending rest)) ∧
  ∀ s : State, s.pending = [] → step s = .next s

/-- The values that the spec gives for power-on reset. The levels of pins and presence lines, which the spec does not give
(log 25), and the values of log 24 are left open. -/
def Obligations.ResetValues : Prop :=
  State.reset.device.state = .idle ∧ State.reset.device.refusal = .ok ∧ State.reset.device.stopCount = 0 ∧
  State.reset.device.validatedArea = none ∧
  State.reset.link.areaBase = 0 ∧ State.reset.link.notice = 0 ∧ State.reset.link.noticeEnable = 0 ∧
  State.reset.interruptLine = false ∧
  State.reset.timing =
    { state := .stopped, period := 0, lockMode := .freeOnly, latency := 0, holdoverLimit := 0, frame := 0,
      latestStart := none, nextScheduled := none, pendingPlacement := none, latestInput := none, measured := 0,
      goodRun := 0, deadline := none, holdoverCount := 0 } ∧
  State.reset.capture.enabled = false ∧ State.reset.capture.state = .noSignal ∧ State.reset.capture.fifo = [] ∧
  State.reset.capture.fillSequence = 0 ∧
  (∀ n, State.reset.capture.slots.get n = ⟨.free, 0⟩) ∧
  (∀ b, State.reset.bays.bays.get b =
    { state := .empty, goTaken := 0, goPending := false, address := 0, length := 0, autoGo := false, binding := none,
      rejectReason := none, rejectIndex := 0, tag := 0, poolPoints := 0, summary := none }) ∧ State.reset.bays.liveBay = none ∧ State.reset.bays.liveTag = 0 ∧
  State.reset.bays.unserved = 0 ∧
  State.reset.reader.checker = none ∧ State.reset.reader.loader = none ∧
  State.reset.store.bankA = blankBank ∧ State.reset.store.bankB = blankBank ∧ State.reset.store.select = .a ∧
  (∀ c, (State.reset.channels.get c).mode = .mute ∧ (State.reset.channels.get c).flat = ⟨0, 0, 0⟩ ∧
    (State.reset.channels.get c).quarantined = false ∧ (State.reset.channels.get c).clipLast = 0 ∧
    (State.reset.channels.get c).lateLast = 0) ∧
  (∀ p, (State.reset.ports.get p).state = .off ∧ (State.reset.ports.get p).presence = false ∧
    (State.reset.ports.get p).presenceRun = 0 ∧ (State.reset.ports.get p).failures = 0 ∧
    (State.reset.ports.get p).phase = none) ∧
  State.reset.triggers.runMark = false ∧ State.reset.triggers.edges = [] ∧
  (∀ l, ∃ pin, State.reset.triggers.lines.get l =
    { setup := ⟨.pin, .aspectWide, 0, .none, 0⟩, filtered := false, run := 0, levelDue := false, combined := false,
      delivered := false, holdOffActive := false, holdOffLeft := 0, pin := pin }) ∧
  State.reset.arbiter.grant = none ∧ State.reset.arbiter.share = 0 ∧ State.reset.arbiter.pointer = 5 ∧
  State.reset.memory.corrected = 0 ∧
  State.reset.status.queue = [] ∧ State.reset.status.snapshotCount = 0 ∧ State.reset.status.fault =
    { occupied := false, sequence := 0, kind := none, detail := 0, frame := 0, further := 0, seenTable := false,
      seenMemory := false, seenLink := false }

/-- The invariants of the tier 3 claims hold at reset. -/
def Obligations.ResetKeepsInvariants : Prop :=
  State.reset.RegistersOk ∧ State.reset.MemoryOk ∧ State.reset.BaysOk ∧ State.reset.BanksOk ∧
  State.reset.capture.SlotsOk ∧ State.reset.capture.FifoOk ∧ State.reset.timing.SpacedOk ∧ State.reset.ClockOk ∧ State.reset.TriggersOk ∧
  State.reset.RenderingOk ∧ State.reset.CodesOk ∧ State.reset.status.fault.Ok ∧ State.reset.device.StopOk ∧
  State.reset.arbiter.ShareOk ∧ (∀ p, (State.reset.ports.get p).CountsOk) ∧
  ∀ c, (State.reset.channels.get c).WindowOk

/-- POWER_ON_RESET leaves every part at its reset value, but for what stands outside the part (the commands still to come, the
source link, the levels of pins and presence lines, log 25; the numbers of training attempts, log 38; the count of free choices,
log 44) and frame memory, which reads as found (log 2). So the accesses held or waiting at the host link are dropped (log 8),
and the profile's values and k take the values of log 24. -/
def Obligations.PowerOnReset : Prop :=
  ∀ (found : FoundMemory) (s : State), ∃ t, exec (.powerOnReset found) s = .next t ∧
    State.sameBut [.pending, .source, .ports, .triggers, .memory] State.reset t ∧
    t.pending = s.pending ∧ t.source = s.source ∧
    (∀ p, t.ports.get p =
      { State.reset.ports.get p with
        presenceLine := (s.ports.get p).presenceLine, attempt := (s.ports.get p).attempt }) ∧
    t.triggers.runMark = false ∧ t.triggers.edges = [] ∧
    (∀ l, t.triggers.lines.get l = { State.reset.triggers.lines.get l with pin := (s.triggers.lines.get l).pin }) ∧
    t.memory.corrected = 0 ∧
    ((found.cells.map Prod.fst).Nodup → ∀ c ∈ found.cells, c.1 < Config.frameMemoryBytes → t.memory.read c.1 = c.2) ∧
    (∀ a, (∀ c ∈ found.cells, c.1 ≠ a) → t.memory.read a = unlistedByte) ∧
    ((found.errors.map Prod.fst).Nodup → ∀ e ∈ found.errors, e.1 < Config.frameMemoryBytes / 8 →
      t.memory.errorAt e.1 = some e.2)

/-- RESET, with no access waiting before it: every block takes its reset values, while the registers, the lines from outside
and every byte and word error of frame memory stay. That the lines from outside and the announcement stay is log 25, the
values that the profile, k, the channels and the ports take are log 24, that a training attempt keeps its number is log 38,
and that this holds in STARTING too is log 40. -/
def Obligations.DeviceReset : Prop :=
  ∀ s : State, s.link.queue = [] → ∃ t, exec .reset s = .next t ∧
    State.sameBut [.pending, .link, .source, .ports, .triggers, .memory] State.reset t ∧
    State.sameBut [.device, .layout, .timing, .capture, .bays, .reader, .store, .channels, .ports, .triggers, .arbiter,
      .memory, .status] s t ∧
    (∀ p, t.ports.get p =
      { State.reset.ports.get p with
        presenceLine := (s.ports.get p).presenceLine, attempt := (s.ports.get p).attempt }) ∧
    t.triggers.runMark = false ∧ t.triggers.edges = [] ∧
    (∀ l, t.triggers.lines.get l = { State.reset.triggers.lines.get l with pin := (s.triggers.lines.get l).pin }) ∧
    (∀ a, t.memory.read a = s.memory.read a) ∧ (∀ w, t.memory.errorAt w = s.memory.errorAt w) ∧ t.memory.corrected = 0

/-- PCI_EXPRESS_LINK_RESET clears NOTICE and NOTICE_ENABLE and discards the accesses held, so that the interrupt line falls;
AREA_BASE and every other block stay. -/
def Obligations.LinkReset : Prop :=
  ∀ s : State, ∃ t, exec .pciExpressLinkReset s = .next t ∧ State.sameBut [.link] s t ∧
    t.link.notice = 0 ∧ t.link.noticeEnable = 0 ∧ t.link.queue = [] ∧ t.interruptLine = false ∧
    t.link.areaBase = s.link.areaBase ∧ t.link.lastRead = s.link.lastRead

/-! ## The register window -/

/-- The register writes that store, on an idle host link. AREA_BASE_WRITE in IDLE stores bits 31 to 16 of the bytes written,
keeps those of the bytes not written, and bits 15 to 0 are 0; outside IDLE it changes nothing. NOTICE_CLEAR clears each notice
bit written as 0 and leaves each bit written as 1 and each bit of a byte not written. NOTICE_ENABLE_WRITE stores bits 6 to 0 of
the bytes written and keeps those of a byte not written. -/
def Obligations.RegisterWrites : Prop :=
  ∀ (s : State) (w : RegWrite), s.link.queue = [] →
    let bit (present : Word) (i : Nat) : Bool :=
      if w.enables.getLsbD (i / 8) then w.value.getLsbD i else present.getLsbD i
    (s.device.state = .idle → ∃ t, exec (.areaBaseWrite w) s = .next t ∧ State.sameBut [.link] s t ∧
      t.link = { s.link with areaBase := t.link.areaBase } ∧
      ∀ i < 32, t.link.areaBase.getLsbD i = (decide (16 ≤ i) && bit s.link.areaBase i)) ∧
    (s.device.state ≠ .idle → exec (.areaBaseWrite w) s = .next s) ∧
    (∃ t, exec (.noticeClear w) s = .next t ∧ State.sameBut [.link] s t ∧
      t.link = { s.link with notice := t.link.notice } ∧
      ∀ i < 32, t.link.notice.getLsbD i =
        (s.link.notice.getLsbD i && (!w.enables.getLsbD (i / 8) || w.value.getLsbD i))) ∧
    (∃ t, exec (.noticeEnableWrite w) s = .next t ∧ State.sameBut [.link] s t ∧
      t.link = { s.link with noticeEnable := t.link.noticeEnable } ∧
      ∀ i < 32, t.link.noticeEnable.getLsbD i = (decide (i ≤ 6) && bit s.link.noticeEnable i))

/-- The register window as it reads, and the decoding of RUN_CONTROL. IDENT, AREA_BASE, NOTICE and NOTICE_ENABLE read as they
stand, RUN_CONTROL reads 0, RUN_STATUS reads the device state, the timing state, the live bay plus 1 (0 for none) and the low
16 bits of the frame number, and a read of fewer than four bytes returns the addressed bytes. A write of RUN_CONTROL, its
unwritten bytes 0, is a RESET with bit 2 set, else a START with bit 0 alone, a STOP with bit 1 alone, and otherwise nothing. -/
def Obligations.RegisterReads : Prop :=
  ∀ (s : State) (w : RegWrite),
    let bit (i : Nat) : Bool := w.enables.getLsbD (i / 8) && w.value.getLsbD i
    s.register 0x00 = 0x003A0601 ∧ s.register 0x04 = s.link.areaBase ∧ s.register 0x08 = 0 ∧
    s.register 0x10 = s.link.notice ∧ s.register 0x14 = s.link.noticeEnable ∧
    (s.register 0x0C).toNat =
      s.device.state.code + 16 * s.timing.state.code +
        256 * (match s.bays.liveBay with | none => 0 | some b => b.val + 1) + 65536 * (s.timing.frame.toNat % 65536) ∧
    (∀ offset size : Nat, offset < 24 → 0 < size → offset % 4 + size ≤ 4 →
      (s.registerBytes offset size).length = size ∧
      ∀ i < size, (s.registerBytes offset size)[i]? =
        some (BitVec.ofNat 8 ((s.register (offset / 4 * 4)).toNat / 256 ^ (offset % 4 + i)))) ∧
    [DeviceState.idle, .starting, .running, .stopping].map DeviceState.code = [0, 1, 2, 3] ∧
    [TimingState.stopped, .free, .acquire, .locked, .holdover].map TimingState.code = [0, 1, 2, 3, 4] ∧
    (bit 2 = true → runControlCommand w = some .reset) ∧
    (bit 2 = false → bit 0 = true → bit 1 = false → runControlCommand w = some .start) ∧
    (bit 2 = false → bit 0 = false → bit 1 = true → runControlCommand w = some .stop) ∧
    (bit 2 = false → bit 0 = bit 1 → runControlCommand w = none)

/-- The interrupt line is asserted just while some bit is set in both NOTICE and NOTICE_ENABLE. A raised notice sets its bit
whatever the enables, leaves the other bits, and changes nothing else; so a bit raised while disabled stays set, and enabling
it later asserts the line. -/
def Obligations.InterruptLine : Prop :=
  (∀ s : State, s.interruptLine = true ↔
    ∃ i < 32, s.link.notice.getLsbD i = true ∧ s.link.noticeEnable.getLsbD i = true) ∧
  ∀ (s : State) (g : NoticeGroup), State.sameBut [.link] s (raiseNotice g s) ∧
    (raiseNotice g s).link.areaBase = s.link.areaBase ∧ (raiseNotice g s).link.noticeEnable = s.link.noticeEnable ∧
    (raiseNotice g s).link.queue = s.link.queue ∧ (raiseNotice g s).link.lastRead = s.link.lastRead ∧
    ∀ i < 32, (raiseNotice g s).link.notice.getLsbD i = (decide (i = g.bit) || s.link.notice.getLsbD i)

/-! ## START, STOP and validation -/

/-- START taken in IDLE, and STOP taken in STARTING. With AREA_BASE at most 32,767 (in 64 KiB units) the device is STARTING, the
validated area is AREA_BASE × 65,536, a DEVICE notice is raised, and the snapshot of that state, then the thirteen reads of the
control area, are handed to the status writer (log 34; their order among bays and lines, and the bytes of a bay record: log 53).
With AREA_BASE above 32,767 START is refused at once with AREA: the device stays IDLE, the validated area becomes none, a DEVICE
notice is raised, and nothing is handed to the status writer. STOP in STARTING returns the device to IDLE at once: the refusal
reason and the validated area stay, the reads in flight stay queued but are discarded when they return (log 34), a DEVICE notice
is raised and the snapshot of that state is handed over. Nothing else changes. -/
def Obligations.StartAndStopInStarting : Prop :=
  (∀ (b : Fin 8) (l : Fin 4), StartBlock.header.place = (0, 52) ∧ (StartBlock.bay b).place = (0x400 + 64 * b.val, 21) ∧
    (StartBlock.setup l).place = (0x200 + 32 * l.val, 6)) ∧
  startBlocks = .header :: ((allOf 8).map .bay ++ (allOf 4).map .setup) ∧
  ∀ s : State, s.link.queue = [] →
    let units := s.link.areaBase.toNat / 65536
    let area := units * 65536
    let entered := raiseNotice .device
      (s.setDevice { s.device with state := .starting, validatedArea := some area, returned := [] })
    let refused := raiseNotice .device (s.setDevice { s.device with refusal := .area, validatedArea := none })
    let forgotten : StatusRequest → StatusRequest
      | .write cells => .write cells
      | .startRead block address length _ => .startRead block address length false
    let left := raiseNotice .device
      ((s.setDevice { s.device with state := .idle, returned := [] }).setStatus
        { s.status with queue := s.status.queue.map forgotten })
    (s.device.state = .idle → units ≤ 32767 →
      exec .start s = .next ((snapshot entered).setStatus
        { (snapshot entered).status with
          queue := (snapshot entered).status.queue ++
            startBlocks.map (fun b => .startRead b (area + b.place.1) b.place.2 true) })) ∧
    (s.device.state = .idle → 32767 < units → exec .start s = .next refused) ∧
    (s.device.state = .starting → exec .stop s = .next (snapshot left))

/-- STOP in RUNNING moves the device to STOPPING with the stop count at 0: the check and the load in progress are abandoned,
CHECKING bays become OFFERED, LOADING and STAGED bays READY, go-pending marks are cleared; the run mark is cleared, hold-offs
and waiting edges are dropped and the line levels stay (a level change that is due and has not come is dropped: log 52); the new
states are handed to the status writer in the order of the bays (log 39), DEVICE is raised, and BAY where a bay changes; then the
snapshot of that state is handed over. Timing, capture, ports, channels, banks and frame memory go on as they are. -/
def Obligations.StopWhileRunning : Prop :=
  ∀ s : State, s.link.queue = [] → s.device.state = .running →
    let changed (b : Fin 8) : Prop := s.bayState b = .checking ∨ s.bayState b = .loading ∨ s.bayState b = .staged
    ∃ t, exec .stop s = .next (snapshot t) ∧ State.sameBut [.device, .link, .bays, .reader, .triggers, .status] s t ∧
      t.device = { s.device with state := .stopping, stopCount := 0 } ∧
      t.link = { s.link with notice := t.link.notice } ∧
      (∀ g, t.noticed g = true ↔ s.noticed g = true ∨ g = .device ∨ g = .bay ∧ ∃ b, changed b) ∧
      t.reader = ⟨none, none, none⟩ ∧
      t.bays.liveBay = s.bays.liveBay ∧ t.bays.liveTag = s.bays.liveTag ∧ t.bays.unserved = s.bays.unserved ∧
      (∀ b, t.bays.bays.get b =
        { s.bays.bays.get b with
          goPending := false
          state := match s.bayState b with
            | .checking => .offered
            | .loading => .ready
            | .staged => .ready
            | other => other }) ∧
      t.triggers.runMark = false ∧ t.triggers.edges = [] ∧ t.triggers.choices = s.triggers.choices ∧
      (∀ l, t.triggers.lines.get l =
        { s.triggers.lines.get l with holdOffActive := false, holdOffLeft := 0, levelDue := false }) ∧
      t.status = s.statusWith ((allOf 8).flatMap (fun b => match s.bayState b with
        | .checking => s.recordWrites b [(0x00, 1, 1)]
        | .loading => s.recordWrites b [(0x00, 1, 3)]
        | .staged => s.recordWrites b [(0x00, 1, 3)]
        | _ => []))

/-- VALIDATION_DONE once the reads have returned. The header is judged by the signature, the profile, the port map and the
regions in this order; the first test that fails gives the reason. Refused, the device returns to IDLE with the reason, the
validated area stays, DEVICE is raised, the snapshot of that state is handed over, and nothing else changes. Accepted, the device
is RUNNING and the refusal reason 0; the profile is latched; the bays are normalised, their go_taken and, where it changed,
their state handed to the status writer (in the bursts of log 16); the used ports enter DOWN with presence absent and the counts
and timers at 0, and the others stay; capture is enabled with the
canvas and the slots; the generator enters FREE with its first start one period later; every line begins where it stands and
the run mark is set; DEVICE is raised, and TIMING where the generator was not in FREE already; then the snapshot of that
state is handed over. -/
def Obligations.ValidationDone : Prop :=
  (∀ (h : Header) (area : Nat),
    let profile := 640 ≤ h.wc ∧ h.wc ≤ 7680 ∧ 360 ≤ h.hc ∧ h.hc ≤ 2160 ∧ 640 ≤ h.wr ∧ h.wr ≤ 3840 ∧ h.wr % 8 = 0 ∧
      360 ≤ h.hr ∧ h.hr ≤ 2160 ∧ 225000 ≤ h.period ∧ h.period ≤ 1126126 ∧ h.lockMode ≤ 1 ∧ h.latency ≤ h.period / 2 ∧
      h.holdoverLimit ≤ 1000 ∧ 1 ≤ h.mask ∧ h.mask ≤ 63 ∧ h.slotBase % 4096 = 0 ∧ h.arenaLow % 4096 = 0 ∧
      h.arenaHigh % 4096 = 0 ∧ h.arenaLow < h.arenaHigh ∧ h.exponent ≤ 7
    let ports := ∀ c : Fin 6, h.mask.testBit c.val = true → h.portMap.get c ≤ 5 ∧
      ∀ d : Fin 6, h.mask.testBit d.val = true → h.portMap.get c = h.portMap.get d → c = d
    let slotsEnd := h.slotBase + 3 * ((h.wc * h.hc * 4 + 4095) / 4096 * 4096)
    let inArea (x : Nat) := area ≤ x ∧ x < area + 65536
    let inSlots (x : Nat) := h.slotBase ≤ x ∧ x < slotsEnd
    let inArena (x : Nat) := h.arenaLow ≤ x ∧ x < h.arenaHigh
    let regions := slotsEnd ≤ 2147483648 ∧ h.arenaHigh ≤ 2147483648 ∧
      ∀ x, ¬ (inArea x ∧ inSlots x) ∧ ¬ (inArea x ∧ inArena x) ∧ ¬ (inSlots x ∧ inArena x)
    (h.signature ≠ 0x54360001 → h.judge area = .signature) ∧
    (h.signature = 0x54360001 → ¬ profile → h.judge area = .profile) ∧
    (h.signature = 0x54360001 → profile → ¬ ports → h.judge area = .portmap) ∧
    (h.signature = 0x54360001 → profile → ports → ¬ regions → h.judge area = .arena) ∧
    (h.signature = 0x54360001 → profile → ports → regions → h.judge area = .ok)) ∧
  ∀ (s : State) (now : Nat) (pins : BitVec 4) (area : Nat), s.readsReturned = true → s.device.validatedArea = some area →
    let h := parseHeader (readBlock s.device.returned .header)
    let record (b : Fin 8) := parseBay (readBlock s.device.returned (.bay b))
    let known (b : Fin 8) : Bool := (record b).state ∈ [0, 1, 7, 8]
    (h.judge area ≠ .ok →
      exec (.validationDone now pins) s = .next (snapshot (raiseNotice .device
        (s.setDevice { s.device with state := .idle, refusal := h.judge area, returned := [] })))) ∧
    (h.judge area = .ok →
      ∃ u, exec (.validationDone now pins) s = .next (snapshot u) ∧
        State.sameBut [.device, .layout, .link, .timing, .capture, .bays, .ports, .triggers, .arbiter, .status] s u ∧
        u.device = { s.device with state := .running, refusal := .ok, returned := [] } ∧
        u.layout.wr = h.wr ∧ u.layout.hr = h.hr ∧ u.layout.arenaLow = h.arenaLow ∧ u.layout.arenaHigh = h.arenaHigh ∧
        u.layout.enabled = BitVec.ofNat 6 h.mask ∧ u.layout.portMap = h.portMap ∧
        u.arbiter = { s.arbiter with exponent := h.exponent, share := 0, pointer := 5 } ∧
        (∀ b, u.bays.bays.get b =
          { s.bays.bays.get b with
            state := if (record b).state = 0 ∨ (record b).state = 1 then .empty
              else if (record b).state = 7 then .rejected else .released,
            goTaken := (record b).goRequest, goPending := false, autoGo := false, binding := none, summary := none }) ∧
        u.bays.liveBay = s.bays.liveBay ∧ u.bays.liveTag = s.bays.liveTag ∧ u.bays.unserved = s.bays.unserved ∧
        u.status =
          { s.status with
            queue := s.status.queue ++ (allOf 8).flatMap (fun b => writeRequests (fieldCells (area + (0x400 + 64 * b.val))
              ((if known b then [] else [(0x00, 1, 8)]) ++ [(0x20, 1, (record b).goRequest.toNat)]))) } ∧
        (∀ p, u.ports.get p =
          if u.layout.used p then
            { s.ports.get p with
              state := .down, presence := false, presenceRun := 0, failures := 0, phase := none, attemptTimer := 0,
              retryTimer := 0 }
          else s.ports.get p) ∧
        u.capture.enabled = true ∧ u.capture.wc = h.wc ∧ u.capture.hc = h.hc ∧ u.capture.slotBase = h.slotBase ∧
        u.capture.slotSize = slotSizeOf h.wc h.hc ∧ (∀ n, (u.capture.slots.get n).state = .free) ∧
        u.capture.state = u.capture.stateOf s.source.announcement ∧
        u.timing.state = .free ∧ u.timing.period = h.period ∧ u.timing.latency = h.latency ∧
        u.timing.lockMode = (if h.lockMode = 1 then .follow else .freeOnly) ∧
        u.timing.holdoverLimit = h.holdoverLimit ∧ u.timing.frame = s.timing.frame ∧
        u.timing.latestStart = some now ∧ u.timing.nextScheduled = some (now + h.period) ∧
        u.timing.pendingPlacement = none ∧ u.timing.latestInput = none ∧ u.timing.measured = 0 ∧
        u.timing.goodRun = 0 ∧ u.timing.holdoverCount = 0 ∧ u.timing.deadline = none ∧
        u.triggers.runMark = true ∧
        (∀ l, let line := u.triggers.lines.get l
          line.setup = parseSetup (readBlock s.device.returned (.setup l)) ∧ line.filtered = pins.getLsbD l.val ∧
          line.combined = combinedNow l u ∧ line.delivered = line.combined ∧ line.holdOffActive = false) ∧
        u.link = { s.link with notice := u.link.notice } ∧
        ∀ g, u.noticed g = (s.noticed g || decide (g = .device) ||
          decide (g = .timing) && decide (s.timing.state ≠ .free)))

/-- A snapshot with a validated area: the count goes up by 1, and these writes are handed over in order: the begin record with
the frame number and the new count, the body in its bursts, the end record with the same two values; without a validated area
nothing happens. The bursts of a write hold its bytes in order, each burst bytes that follow one another within one 256-byte
block (log 16). The body holds the fields of the status page, each at its offset, as the state has them. -/
def Obligations.Snapshot : Prop :=
  (∀ cells, (burstsOf cells).flatten = cells ∧
    ∀ run ∈ burstsOf cells, run ≠ [] ∧ run.IsChain (fun c d => d.1 = c.1 + 1 ∧ d.1 % 256 ≠ 0)) ∧
  ∀ s : State,
    let body := bodyFirst s ++ bodySecond s
    let bit (b : Bool) : Nat := if b then 1 else 0
    (s.device.validatedArea = none → snapshot s = s) ∧
    (∀ area, s.device.validatedArea = some area →
      State.sameBut [.status] s (snapshot s) ∧ (snapshot s).status.fault = s.status.fault ∧
      (snapshot s).status.snapshotCount = s.status.snapshotCount + 1 ∧
      (snapshot s).status.queue = s.status.queue ++
        (.write (placed (area + 0x1000) (leBytes 8 s.timing.frame.toNat) ++
            placed (area + 0x1008) (leBytes 4 (s.status.snapshotCount + 1).toNat)) ::
          ((burstsOf (fieldCells (area + 0x1000) body)).map StatusRequest.write ++
            [.write (placed (area + 0x1300) (leBytes 8 s.timing.frame.toNat) ++
              placed (area + 0x1308) (leBytes 4 (s.status.snapshotCount + 1).toNat))]))) ∧
    (∀ base, fieldCells base body = body.flatMap (fun f => placed (base + f.1) (leBytes f.2.1 f.2.2))) ∧
    (body.map Prod.fst).Pairwise (· < ·) ∧ body.length = 86 ∧
    (∀ f ∈ [(0x100, 1, s.device.state.code), (0x101, 1, s.timing.state.code), (0x102, 1, s.device.refusal.code),
        (0x104, 4, s.timing.measured), (0x108, 1, match s.bays.liveBay with | none => 15 | some b => b.val),
        (0x10C, 4, s.bays.liveTag.toNat), (0x111, 1, s.capture.state.code), (0x118, 4, s.capture.dropped.toNat),
        (0x11C, 4, s.capture.repeated.toNat), (0x120, 4, s.capture.discardedPartial.toNat),
        (0x124, 4, s.capture.overflows.toNat), (0x128, 4, s.bays.unserved.toNat),
        (0x12C, 4, s.memory.corrected.toNat)], f ∈ body) ∧
    ((∀ n, (s.capture.slots.get n).state ≠ .reading) → (0x110, 1, 15) ∈ body ∧ (0x114, 4, 0) ∈ body) ∧
    (∀ n, (s.capture.slots.get n).state = .reading → (∀ m, (s.capture.slots.get m).state = .reading → m = n) →
      (0x110, 1, n.val) ∈ body ∧ (0x114, 4, (s.capture.slots.get n).sequence.toNat) ∈ body) ∧
    (∀ l : Fin 4, let line := s.triggers.lines.get l
      ∀ f ∈ [(0x130 + 4 * l.val, 1, bit line.filtered), (0x131 + 4 * l.val, 1, bit line.combined),
        (0x132 + 4 * l.val, 1, bit line.delivered), (0x133 + 4 * l.val, 1, bit line.holdOffActive)], f ∈ body) ∧
    (let r := s.status.fault
      ∀ f ∈ [(0x140, 1, bit r.occupied), (0x141, 1, match r.kind with | none => 0 | some k => k.code),
        (0x142, 1, bit r.seenTable + 2 * bit r.seenMemory + 4 * bit r.seenLink), (0x144, 2, r.sequence.toNat),
        (0x146, 2, r.further), (0x148, 4, r.detail.toNat), (0x150, 8, r.frame.toNat)], f ∈ body) ∧
    ∀ c : Fin 6, let base := 0x200 + 16 * c.val
      let ch := s.channels.get c
      (∀ p, s.layout.portOf c = some p → let port := s.ports.get p
        ∀ f ∈ [(base, 1, p.val), (base + 1, 1, port.state.code), (base + 2, 1, port.failures),
          (base + 3, 1, bit port.presence), (base + 4, 1, ch.mode.code), (base + 5, 1, bit ch.quarantined),
          (base + 8, 4, ch.lateLast), (base + 12, 4, ch.clipLast)], f ∈ body) ∧
      (s.layout.portOf c = none →
        ∀ f ∈ [(base, 1, 15), (base + 1, 1, 0), (base + 2, 1, 0), (base + 3, 1, 0), (base + 4, 1, 0), (base + 5, 1, 0),
          (base + 8, 4, 0), (base + 12, 4, 0)], f ∈ body)

/-! ## Frame timing and the output frame start -/

/-- The measurement and the states at an input frame start that the generator takes. The period from the latest recorded start
is good when it lies within floor(P/256) of P, a good period becomes M, and the time is recorded; the profile's values, the
frame number and the latest output frame start stay. FREE goes to ACQUIRE on a good period in FOLLOW; ACQUIRE counts toward lock
and locks at 8, a bad period clears the count; LOCKED is kept by a good period and left for HOLDOVER (FREE with H = 0) by a bad
one, a pending placement kept, else the next start one cadence after the latest (M, or P with H = 0) where that lies ahead; that
no scheduled start stands beside a pending placement that is kept, in FREE with H = 0 too where R138 says that one is always
set, is the model's reading (DEDUCED, log 22); HOLDOVER goes to ACQUIRE on a good period. Entry to ACQUIRE clears the schedule
and sets the good-run count to 1; ACQUIRE and LOCKED arm the deadline at M + floor(M/2) after the start. In STOPPED nothing
changes. -/
def Obligations.InputFrameStartTiming : Prop :=
  ∀ (t : Timing) (now : Nat),
    let u := t.onInput now
    let good := t.endsGood now
    let armed := u.deadline = some (now + (u.measured + u.measured / 2))
    let acquired := u.state = .acquire ∧ u.nextScheduled = none ∧ u.goodRun = 1 ∧ u.holdoverCount = 0 ∧ armed ∧
      u.pendingPlacement = t.pendingPlacement
    (good = true ↔ ∃ last, t.latestInput = some last ∧ |((now : Int) - last) - t.period| ≤ (t.period / 256 : Nat)) ∧
    (t.state = .stopped → u = t) ∧
    (t.state ≠ .stopped →
      u.latestInput = some now ∧ (∀ last, t.latestInput = some last → good = true → u.measured = now - last) ∧
      (good = false → u.measured = t.measured) ∧ u.period = t.period ∧ u.lockMode = t.lockMode ∧
      u.latency = t.latency ∧ u.holdoverLimit = t.holdoverLimit ∧ u.frame = t.frame ∧
      u.latestStart = t.latestStart) ∧
    (t.state = .free → good = true → t.lockMode = .follow → acquired) ∧
    (t.state = .free → (good = false ∨ t.lockMode = .freeOnly) → u.state = .free ∧ u.nextScheduled = t.nextScheduled ∧
      u.pendingPlacement = t.pendingPlacement) ∧
    (t.state = .acquire → armed ∧ (good = false → u.state = .acquire ∧ u.goodRun = 0) ∧
      (good = true → t.goodRun + 1 < 8 → u.state = .acquire ∧ u.goodRun = t.goodRun + 1) ∧
      (good = true → 8 ≤ t.goodRun + 1 → u.state = .locked ∧ u.goodRun = 8)) ∧
    (t.state = .locked → good = true → u.state = .locked ∧ u.goodRun = t.goodRun ∧ armed) ∧
    (t.state = .locked → good = false → u.state = (if t.holdoverLimit = 0 then .free else .holdover) ∧ u.deadline = none ∧
      u.goodRun = 0 ∧ u.holdoverCount = 0 ∧ u.pendingPlacement = t.pendingPlacement ∧
      (t.pendingPlacement ≠ none → u.nextScheduled = none) ∧
      (∀ start, t.pendingPlacement = none → t.latestStart = some start →
        let next := start + (if t.holdoverLimit = 0 then t.period else t.measured)
        u.nextScheduled = if now < next then some next else none)) ∧
    (t.state = .holdover → good = true → acquired) ∧
    (t.state = .holdover → good = false → u.state = .holdover ∧ u.nextScheduled = t.nextScheduled ∧
      u.pendingPlacement = t.pendingPlacement)

/-- The placement test, in ACQUIRE and for a good period in LOCKED: a pending placement stands; else the next output frame
start is placed L ticks after the input frame start where the frame in progress then lasts at least floor(P/2) ticks; else
nothing is placed. -/
def Obligations.PlacementTest : Prop :=
  ∀ (t : Timing) (now : Nat), (t.state = .acquire ∨ t.state = .locked ∧ t.endsGood now = true) →
    (∀ p, t.pendingPlacement = some p → (t.onInput now).pendingPlacement = some p) ∧
    (∀ s, t.pendingPlacement = none → t.latestStart = some s → t.period / 2 ≤ now + t.latency - s →
      s ≤ now + t.latency → (t.onInput now).pendingPlacement = some (now + t.latency)) ∧
    (∀ s, t.pendingPlacement = none → t.latestStart = some s → now + t.latency < s + t.period / 2 →
      (t.onInput now).pendingPlacement = none)

/-- INPUT_FRAME_START: the generator and the Capture Unit respond, SOURCE and TIMING are raised where their rules say, and
nothing else changes. The output frame start follows at the same event just in two cases: a placement with L = 0 falls at this
start, in ACQUIRE or at a good period in LOCKED, as it stood or as this start makes it; or a bad period in LOCKED ends the lock
with nothing pending and one cadence after the latest start (M, or P with H = 0) not ahead. That the fill comes before that
start's handoff is log 41. -/
def Obligations.InputFrameStart : Prop :=
  ∀ (s : State) (now : Nat) (order : StartOrder), ∃ t, State.sameBut [.link, .timing, .capture] s t ∧
    let g := s.timing
    let follows := g.state = .acquire ∨ g.state = .locked ∧ g.endsGood now = true
    let placed := g.latency = 0 ∧ (g.pendingPlacement = some now ∨
      g.pendingPlacement = none ∧ ∃ start, g.latestStart = some start ∧ start + g.period / 2 ≤ now)
    let late := g.pendingPlacement = none ∧ ∃ start, g.latestStart = some start ∧
      start + (if g.holdoverLimit = 0 then g.period else g.measured) ≤ now
    let issued := follows ∧ placed ∨ g.state = .locked ∧ g.endsGood now = false ∧ late
    t.timing = g.onInput now ∧
    t.capture = (if s.capture.enabled then s.capture.onInput else s.capture) ∧
    t.link = { s.link with notice := t.link.notice } ∧
    (∀ group, t.noticed group = (s.noticed group ||
      (decide (group = .timing) && decide ((g.onInput now).state ≠ g.state)) ||
      (decide (group = .source) && s.capture.notices s.capture.onInput))) ∧
    (¬ issued → exec (.inputFrameStart now order) s = .next t) ∧
    (issued → exec (.inputFrameStart now order) s = .next (issueFrameStart now order t))

/-- An output frame start in the generator: the frame number goes up by 1, this start is the latest, what caused it is
cleared; in FREE the next start follows P later, in HOLDOVER the count goes up and the next start follows M later, or P later
in FREE at the H-th. -/
def Obligations.OutputFrameStartTiming : Prop :=
  ∀ (t : Timing) (now : Nat),
    let u := t.startAt now
    u.frame = t.frame + 1 ∧ u.latestStart = some now ∧ u.pendingPlacement = none ∧ u.measured = t.measured ∧
    u.latestInput = t.latestInput ∧ u.deadline = t.deadline ∧ u.period = t.period ∧ u.goodRun = t.goodRun ∧
    (t.state = .free → u.state = .free ∧ u.nextScheduled = some (now + t.period)) ∧
    (t.state = .acquire ∨ t.state = .locked → u.state = t.state ∧ u.nextScheduled = none) ∧
    (t.state = .holdover → u.holdoverCount = t.holdoverCount + 1 ∧
      (t.holdoverCount + 1 = t.holdoverLimit → u.state = .free ∧ u.nextScheduled = some (now + t.period)) ∧
      (t.holdoverCount + 1 ≠ t.holdoverLimit → u.state = .holdover ∧ u.nextScheduled = some (now + t.measured)))

/-- OUTPUT_FRAME_START while RUNNING, at the time of the pending placement or else of the next scheduled start. Its responses
come in the order of log 31: the generator issues it; the fault acknowledgement, first or last (log 10); the lines latch their
setup and the Bay Controller takes the passed edges that come before its own response; the Bay Controller exchanges the banks,
scans the bays, rewrites the held states (bays 0 to 7 in order, log 39) and starts a check; the Capture Unit makes its handoff;
the channels close their counts, with a CHANNEL notice where one closes a late-line count above 0, latch their controls and
begin the frame; then one snapshot is handed over. So every raster begins again, every enabled channel whose port is UP renders
and requests its first canvas row (which of two that one pixel needs: log 21), a pixel dropped unsent counts no clip, and no
byte of frame memory, no register but NOTICE and no device state changes. What is read of a held bay's record (log 46), the
order of the records that one block reads (log 48) and that no event comes before the gathering of the snapshot (log 49) are the
model's choices. -/
def Obligations.OutputFrameStart : Prop :=
  ∀ (s : State) (now : Nat) (order : StartOrder), s.device.state = .running → s.timing.state ≠ .stopped →
    s.timing.nextStart = some now →
    let issued := setTimingNoticed (s.timing.startAt now) s
    let latched := latchSetups (if order.ackFirst then acknowledgeFault issued else issued)
    let early := order.early.foldl (fun x l => takeEdge l x) latched
    let responded := channelsAtFrameStart (captureAtFrameStart (startCheck (scan (exchange early))))
    let whole := if order.ackFirst then responded else acknowledgeFault responded
    let t := snapshot whole
    exec (.outputFrameStart order) s = .next t ∧
    (∀ x, scan x =
      (allOf 8).foldl (fun y b => rewriteHeld b y)
        ((allOf 8).foldl (fun y b => scanBay b (x.bayRecord b) y)
          ((allOf 8).foldl (fun y b => afterControlRead (bayOffset b) 21 y) x))) ∧
    (∀ x b, rewriteHeld b x =
      if x.bayState b = .empty ∨ x.bayState b = .rejected ∨ x.bayState b = .released then x
      else handFields (bayOffset b) [(0x00, 1, (x.bayState b).code)] x) ∧
    (∀ x b, x.device.state = .running → x.reader.checker = none → x.bayState b = .offered →
      (∀ a < b, x.bayState a ≠ .offered) →
      startCheck x = setChecker (some (startWalk x.layout b (x.bays.bays.get b).address (x.bays.bays.get b).length none))
        (setBayState b .checking x)) ∧
    (∀ x, x.device.state ≠ .running ∨ x.reader.checker ≠ none ∨ (∀ a, x.bayState a ≠ .offered) → startCheck x = x) ∧
    (∀ x, (acknowledgeFault x).status =
      let read := afterControlRead 0x104 2 x
      { read.status with fault := read.status.fault.acknowledge (field (x.controlBytes 0x104 2) 0 2) }) ∧
    (∀ p ∈ [Part.pending, .device, .layout, .source, .arbiter], p.same s t) ∧
    t.timing = s.timing.startAt now ∧
    t.link.areaBase = s.link.areaBase ∧ t.link.noticeEnable = s.link.noticeEnable ∧ t.link.queue = s.link.queue ∧
    (∀ a, t.memory.read a = s.memory.read a) ∧ (∀ w, t.memory.errorAt w = s.memory.errorAt w) ∧
    (∀ p, t.ports.get p = { s.ports.get p with position := 0 }) ∧
    (∀ c, let old := s.channels.get c
      let ch := t.channels.get c
      ch.clipLast = old.clipRunning - old.ready.countP ReadyPixel.clipped ∧ ch.clipRunning = 0 ∧
      ch.lateLast = old.lateRunning ∧ ch.lateRunning = 0 ∧ ch.nextPixel = 0 ∧ ch.ready = [] ∧
      ch.window = request t c [] ∧
      (ch.rendering = true ↔ ∃ p, s.layout.portOf c = some p ∧ (s.ports.get p).state = .up) ∧
      ch.mode = (if s.layout.isEnabled c then modeOf (field (s.controlBytes (controlOffset c) 8) 0 1) else old.mode) ∧
      ch.flat = (if s.layout.isEnabled c then flatOf (s.controlBytes (controlOffset c) 8) else old.flat) ∧
      ch.quarantined = (old.quarantined && (early.bayIn .staged).isNone)) ∧
    t.capture = (if s.capture.enabled then s.capture.handoff s.freeze else s.capture) ∧
    t.store =
      { s.store with
        select := if (early.bayIn .staged).isSome then TableStore.other s.store.select else s.store.select } ∧
    t.bays = (startCheck (scan (exchange early))).bays ∧ t.reader = (startCheck (scan (exchange early))).reader ∧
    (s.triggers.runMark = true → ∀ l, (t.triggers.lines.get l).setup = s.setupRecord l) ∧
    t.status.fault = whole.status.fault ∧
    (t.noticed .channel = true ↔ s.noticed .channel = true ∨ ∃ c, 0 < (s.channels.get c).lateRunning) ∧
    ∀ area, s.device.validatedArea = some area → t.status.snapshotCount = s.status.snapshotCount + 1

/-- OUTPUT_FRAME_START while STOPPING, with the run mark clear. At both starts of a STOP every channel closes its counts, with a
CHANNEL notice for a late-line count above 0, the enabled channels latch their controls, no channel renders in the frame that
begins, and a snapshot is handed over. The first, the stop frame, brings the stop count to 1: the device stays STOPPING, the
Capture Unit makes its handoff, and the bays, the banks and the lines stand still. The second ends the STOP: the device enters
IDLE with the count back at 0, the generator is STOPPED with the frame number one higher, every port is OFF, READY and LIVE bays
are RELEASED, their records handed over in the order of the bays (log 39), no bay is live, both banks are blank, capture is
disabled without a handoff (log 27), its counters as they were, the quarantine marks are cleared, and DEVICE is raised, BAY
where a bay is released, and CHANNEL where a port becomes OFF. The order of the channels' reads (log 48) and that no event comes
before the gathering of the snapshot (log 49) are the model's choices. -/
def Obligations.OutputFrameStartStopping : Prop :=
  ∀ (s : State) (now : Nat) (order : StartOrder), s.device.state = .stopping → s.triggers.runMark = false →
    s.timing.state ≠ .stopped → s.timing.nextStart = some now →
    let common (u : State) : Prop :=
      (∀ p ∈ [Part.pending, .layout, .source, .arbiter, .reader, .triggers], p.same s u) ∧
      (∀ a, u.memory.read a = s.memory.read a) ∧
      (∀ c, let old := s.channels.get c
        let ch := u.channels.get c
        ch.clipLast = old.clipRunning - old.ready.countP ReadyPixel.clipped ∧ ch.clipRunning = 0 ∧
        ch.lateLast = old.lateRunning ∧ ch.lateRunning = 0 ∧ ch.nextPixel = 0 ∧ ch.window = []) ∧
      ∀ c, (u.channels.get c).rendering = false ∧ (u.channels.get c).ready = [] ∧
        (s.layout.isEnabled c = true →
          (u.channels.get c).mode = modeOf (field (s.controlBytes (controlOffset c) 8) 0 1) ∧
          (u.channels.get c).flat = flatOf (s.controlBytes (controlOffset c) 8))
    (s.device.stopCount = 0 →
      ∃ u, exec (.outputFrameStart order) s = .next (snapshot u) ∧ common u ∧
        u.bays = s.bays ∧ u.store = s.store ∧ u.device = { s.device with stopCount := 1 } ∧
        u.timing = s.timing.startAt now ∧
        u.capture = (if s.capture.enabled then s.capture.handoff s.freeze else s.capture) ∧
        (∀ p, u.ports.get p = { s.ports.get p with position := 0 }) ∧
        u.status.queue = s.status.queue ∧
        (u.noticed .channel = true ↔ s.noticed .channel = true ∨ ∃ c, 0 < (s.channels.get c).lateRunning)) ∧
    (s.device.stopCount = 1 →
      ∃ u, exec (.outputFrameStart order) s = .next (snapshot u) ∧ common u ∧
        u.device = { s.device with state := .idle, stopCount := 0 } ∧
        u.timing.state = .stopped ∧ u.timing.frame = s.timing.frame + 1 ∧ u.timing.nextScheduled = none ∧
        u.timing.pendingPlacement = none ∧ u.timing.deadline = none ∧ u.timing.latestInput = none ∧
        u.timing.measured = s.timing.measured ∧
        (∀ p, (u.ports.get p).state = .off) ∧
        (∀ b, u.bayState b = if s.bayState b = .ready ∨ s.bayState b = .live then .released else s.bayState b) ∧
        u.bays.liveBay = none ∧ u.bays.liveTag = 0 ∧
        u.store.bankA = blankBank ∧ u.store.bankB = blankBank ∧ u.store.select = s.store.select ∧
        u.capture.enabled = false ∧ u.capture.state = .noSignal ∧ u.capture.fifo = [] ∧
        u.capture.repeated = s.capture.repeated ∧ u.capture.dropped = s.capture.dropped ∧
        u.capture.discardedPartial = s.capture.discardedPartial ∧ u.capture.overflows = s.capture.overflows ∧
        u.capture.fillSequence = s.capture.fillSequence ∧ u.capture.pendingStart = false ∧ u.capture.pendingLines = 0 ∧
        (∀ n, u.capture.slots.get n = ⟨.free, (s.capture.slots.get n).sequence⟩) ∧
        (∀ c, (u.channels.get c).quarantined = false) ∧ u.noticed .device = true ∧
        u.status.queue = s.status.queue ++ (allOf 8).flatMap (fun b =>
          if s.bayState b = .ready ∨ s.bayState b = .live then s.recordWrites b [(0x00, 1, 8)] else []) ∧
        (u.noticed .bay = true ↔ s.noticed .bay = true ∨ ∃ b, s.bayState b = .ready ∨ s.bayState b = .live) ∧
        (u.noticed .channel = true ↔ s.noticed .channel = true ∨ (∃ c, 0 < (s.channels.get c).lateRunning) ∨
          ∃ p, (s.ports.get p).state ≠ .off))

/-- MISSING_START_DEADLINE in ACQUIRE or LOCKED: HOLDOVER is entered (FREE with H = 0), the deadline and the counts are
cleared and TIMING is raised; a pending placement is kept; else the next start is one cadence after the latest (M, or P
with H = 0) where that lies ahead, and the output frame start comes at once where it does not. With H = 0 a placement is kept
into FREE (log 22). -/
def Obligations.MissingStartDeadline : Prop :=
  ∀ (s : State) (d : Nat) (k : StartOrder), (s.timing.state = .acquire ∨ s.timing.state = .locked) → s.timing.deadline = some d →
    ∃ t, State.sameBut [.link, .timing] s t ∧
      t.link = (raiseNotice .timing s).link ∧
      t.timing.state = (if s.timing.holdoverLimit = 0 then .free else .holdover) ∧ t.timing.deadline = none ∧
      t.timing.goodRun = 0 ∧ t.timing.holdoverCount = 0 ∧ t.timing.measured = s.timing.measured ∧
      t.timing.frame = s.timing.frame ∧ t.timing.latestStart = s.timing.latestStart ∧
      t.timing.pendingPlacement = s.timing.pendingPlacement ∧
      (∀ p, s.timing.pendingPlacement = some p → exec (.missingStartDeadline k) s = .next t) ∧
      (∀ start, s.timing.pendingPlacement = none → s.timing.latestStart = some start →
        let next := start + (if s.timing.holdoverLimit = 0 then s.timing.period else s.timing.measured)
        (d < next → t.timing.nextScheduled = some next ∧ exec (.missingStartDeadline k) s = .next t) ∧
        (next ≤ d → exec (.missingStartDeadline k) s = .next (issueFrameStart d k t)))


/-! ## Source capture -/

/-- PRESENCE_CHANGE, and FORMAT_ANNOUNCEMENT while presence is on: with capture enabled, the capture state becomes NO_SIGNAL
without presence, stays CAPTURING or becomes WAITING with a matching announcement, and becomes MISMATCH with another; a fill
in progress is discarded and counted where CAPTURING is left. SOURCE is raised just where the capture state changes. With capture
disabled the unit stays. The link stands as
announced; nothing but NOTICE and the trigger lines changes besides. -/
def Obligations.SourceLinkFollowed : Prop :=
  ∀ (s : State) (link : Option Format),
    let c := s.capture
    let seen : CaptureState := match link with
      | none => .noSignal
      | some f => if f.width = c.wc ∧ f.height = c.hc then .waiting else .mismatch
    ∃ t, exec (.presenceChange link) s = .next t ∧
      (∀ f, link = some f → s.source.announcement.isSome → exec (.formatAnnouncement f) s = .next t) ∧
      State.sameBut [.link, .source, .capture, .triggers] s t ∧
      t.source.announcement = link ∧ t.link = { s.link with notice := t.link.notice } ∧
      (∀ g, g ≠ .trigger → (t.noticed g = true ↔ s.noticed g = true ∨
        g = .source ∧ c.enabled = true ∧ t.capture.state ≠ c.state)) ∧
      (c.enabled = false → t.capture = c) ∧
      (c.enabled = true → c.state = .capturing → seen = .waiting → t.capture = c) ∧
      (c.enabled = true → c.state = .capturing → seen ≠ .waiting →
        t.capture =
          { c with
            state := seen, lines := 0, fifo := [], pendingStart := false, pendingLines := 0,
            discardedPartial := c.discardedPartial + 1, slots := (c.moveSlots .filling .free).slots } ∧
        t.noticed .source = true) ∧
      (c.enabled = true → c.state ≠ .capturing → t.capture = { c with state := seen })

/-- An input frame start in the Capture Unit: none in NO_SIGNAL and MISMATCH; in WAITING with a FREE slot the lowest-numbered
FREE slot becomes FILLING with the next sequence number and the state CAPTURING; in CAPTURING before the last line the fill
is discarded and counted and a new one starts; after the last line the pending start mark is set; with the mark set the
pending frame's pixels are removed and counted as a discarded partial frame. -/
def Obligations.InputFrameStartCapture : Prop :=
  ∀ (c : Capture),
    let fills (before after : Capture) : Prop := ∀ n, before.slotIn .free = some n →
      after.slots.get n = ⟨.filling, before.fillSequence + 1⟩ ∧ after.fillSequence = before.fillSequence + 1 ∧
      after.lines = 0 ∧ after.state = .capturing ∧ ∀ m, m ≠ n → after.slots.get m = before.slots.get m
    (c.state = .noSignal ∨ c.state = .mismatch → c.onInput = c) ∧
    (c.state = .waiting → fills c c.onInput ∧ c.onInput.discardedPartial = c.discardedPartial ∧ c.onInput.fifo = c.fifo) ∧
    (c.state = .capturing → c.pendingStart = false → c.lines < c.hc →
      fills c.discard c.onInput ∧ c.onInput.discardedPartial = c.discardedPartial + 1 ∧ c.onInput.fifo = []) ∧
    (c.state = .capturing → c.pendingStart = false → c.hc ≤ c.lines →
      c.onInput = { c with pendingStart := true, pendingLines := 0 }) ∧
    (c.state = .capturing → c.pendingStart = true →
      c.onInput =
        { c with
          pendingLines := 0, discardedPartial := c.discardedPartial + 1,
          fifo := c.fifo.filter (fun p => p.slot.isSome) })

/-- LINE while capture is enabled: ignored outside CAPTURING and once Hc lines are received; a line of Wc pixels or more that
finds room puts its first Wc pixels at the end of the line FIFO, tagged with the fill's slot (none while a start is pending),
its row and its columns, and counts one line; one that does not find room overflows: the fill is discarded, the overflow is
counted, the state is WAITING; a shorter one discards the fill, counts a partial frame, and the state is WAITING. -/
def Obligations.LineReceived : Prop :=
  ∀ (s : State) (pixels : List Pixel), s.capture.enabled = true →
    let c := s.capture
    let row := if c.pendingStart then c.pendingLines else c.lines
    let slot := if c.pendingStart then none else c.slotIn .filling
    let taken := c.state = .capturing ∧ row < c.hc
    let room := c.fifo.length + (pixels.take c.wc).length ≤ 32768
    (¬ taken → exec (.line pixels) s = .next s) ∧
    (taken → ∃ t, exec (.line pixels) s = .next t ∧ State.sameBut [.link, .capture] s t ∧
      (room → c.wc ≤ pixels.length →
        t.link = s.link ∧ t.capture.fifo = c.fifo ++ Capture.tagged slot row 0 (pixels.take c.wc) ∧
        t.capture.lines = c.lines + (if c.pendingStart then 0 else 1) ∧
        t.capture.pendingLines = c.pendingLines + (if c.pendingStart then 1 else 0) ∧
        t.capture.state = .capturing ∧ t.capture.slots = c.slots ∧ t.capture.discardedPartial = c.discardedPartial ∧
        t.capture.overflows = c.overflows) ∧
      (¬ room → t.capture = { c.discard with overflows := c.overflows + 1, state := .waiting } ∧
        t.noticed .source = true) ∧
      (room → pixels.length < c.wc →
        t.capture = { c.discard with discardedPartial := c.discardedPartial + 1, state := .waiting } ∧
        t.noticed .source = true))

/-- FILL_DONE, with every line received, a slot FILLING and no pixel of the fill left to write: an older COMPLETE slot becomes
FREE and counts as dropped; the FILLING slot becomes COMPLETE; without a pending start the state is WAITING; with one, the
lowest-numbered slot then FREE becomes FILLING with the next sequence number and takes the pending lines and pixels. -/
def Obligations.FillDone : Prop :=
  ∀ (s : State) (n : Fin 3), s.capture.enabled = true → s.capture.fillWritten = true →
    s.capture.slotIn .filling = some n → (∀ m, (s.capture.slots.get m).state = .filling → m = n) →
    let c := s.capture
    ∃ t, exec .fillDone s = .next t ∧ State.sameBut [.link, .capture] s t ∧
      t.capture.dropped = (if (c.slotIn .complete).isSome then c.dropped + 1 else c.dropped) ∧
      t.capture.slots.get n = { c.slots.get n with state := .complete } ∧
      (∀ m, (c.slots.get m).state = .reading → t.capture.slots.get m = c.slots.get m) ∧
      (c.pendingStart = false → t.capture.state = .waiting ∧ t.capture.fillSequence = c.fillSequence ∧
        ∀ m, (c.slots.get m).state = .complete → t.capture.slots.get m = { c.slots.get m with state := .free }) ∧
      (c.pendingStart = true → ∀ m,
        lowest 3 (fun a => decide ((c.slots.get a).state = .free ∨ (c.slots.get a).state = .complete)) = some m →
        t.capture.state = .capturing ∧ t.capture.pendingStart = false ∧ t.capture.pendingLines = 0 ∧
        t.capture.lines = c.pendingLines ∧ t.capture.fillSequence = c.fillSequence + 1 ∧
        t.capture.slots.get m = ⟨.filling, c.fillSequence + 1⟩ ∧
        (∀ a, a ≠ m → (c.slots.get a).state = .complete ∨ (c.slots.get a).state = .free →
          t.capture.slots.get a = { c.slots.get a with state := .free }) ∧
        t.capture.fifo = c.fifo.map (fun p => { p with slot := some m }))

/-- How slots move. At the handoff, with freeze off and a slot COMPLETE, the READING slot becomes FREE and the COMPLETE slot
READING; otherwise a READING slot stays and counts as repeated; with neither nothing changes. At a discard the FILLING slot
becomes FREE and keeps its sequence number, every other slot stays, the lines received, the line FIFO and the pending start
are cleared, and no counter changes. -/
def Obligations.HandoffAndDiscard : Prop :=
  ∀ (c : Capture) (freeze : Bool),
    (freeze = false → (c.slotIn .complete).isSome = true →
      c.handoff freeze =
        { c with
          slots := Arr.build (fun n =>
            if (c.slots.get n).state = .reading then { c.slots.get n with state := .free }
            else if (c.slots.get n).state = .complete then { c.slots.get n with state := .reading }
            else c.slots.get n) }) ∧
    (freeze = true ∨ (c.slotIn .complete).isSome = false →
      ((c.slotIn .reading).isSome = true → c.handoff freeze = { c with repeated := c.repeated + 1 }) ∧
      ((c.slotIn .reading).isSome = false → c.handoff freeze = c)) ∧
    (∀ n, c.discard.slots.get n =
      if (c.slots.get n).state = .filling then { c.slots.get n with state := .free } else c.slots.get n) ∧
    c.discard.lines = 0 ∧ c.discard.fifo = [] ∧ c.discard.pendingStart = false ∧ c.discard.pendingLines = 0 ∧
    c.discard.state = c.state ∧ c.discard.fillSequence = c.fillSequence ∧ c.discard.dropped = c.dropped ∧
    c.discard.repeated = c.repeated ∧ c.discard.discardedPartial = c.discardedPartial ∧
    c.discard.overflows = c.overflows


/-! ## Bays -/

/-- The exchange with bay `b` the STAGED one and `previous` the LIVE one, if any: the bank select changes and neither bank does,
bay `b` becomes LIVE, the previous live bay READY with its summary, tag and points, the live number and tag follow, and every
quarantine mark is cleared; the new state of bay `b` and then that of the previous live bay are handed to the status writer (the
order: log 39), and BAY is raised while the device works; no other bay, no walk and no byte of memory changes. With no bay STAGED
nothing changes. -/
def Obligations.Exchange : Prop :=
  ∀ s : State,
    (s.bayIn .staged = none → exchange s = s) ∧
    (∀ b previous, s.bayIn .staged = some b → s.bayIn .live = previous →
      (∀ p ∈ [Part.pending, .device, .layout, .timing, .source, .capture, .reader, .ports, .triggers, .arbiter, .memory],
        p.same s (exchange s)) ∧
      (exchange s).store = { s.store with select := TableStore.other s.store.select } ∧
      (∀ a, (exchange s).bays.bays.get a =
        { s.bays.bays.get a with
          state := if some a = previous then .ready else if a = b then .live else s.bayState a }) ∧
      (exchange s).bays.liveBay = some b ∧ (exchange s).bays.liveTag = (s.bays.bays.get b).tag ∧
      (∀ c, (exchange s).channels.get c = { s.channels.get c with quarantined := false }) ∧
      (exchange s).status = s.statusWith (s.recordWrites b [(0x00, 1, 6)] ++
        match previous with
        | none => []
        | some a => s.recordWrites a [(0x00, 1, 3)]) ∧
      (exchange s).link = (raiseIf s.working .bay s).link)

/-- The scan of one bay: auto_go and the binding are latched; an offer is taken in EMPTY, REJECTED and RELEASED alone; a
withdraw releases a bay in OFFERED, CHECKING, READY, LOADING and LIVE, abandons its check or load, and makes no bay live; a go
request that differs from go_taken is recorded as taken, handed over, and given as one go, whatever the bay's state. An offer and
a withdraw hand the state, and an offer the cleared fields, to the status writer and raise BAY while the device works. -/
def Obligations.BayScan : Prop :=
  ∀ (s : State) (b : Fin 8) (r : BayRecord),
    let offered := (s.bayState b = .empty ∨ s.bayState b = .rejected ∨ s.bayState b = .released) ∧ r.state = 1
    scanBay b r s = scanGo b r (scanWithdraw b r (scanOffer b r
      (modifyBay b (fun bay => { bay with autoGo := r.autoGo, binding := r.binding }) s))) ∧
    (offered → (scanOffer b r s).bays.bays.get b =
      { s.bays.bays.get b with
        state := .offered, goPending := false, address := r.address, length := r.length, rejectReason := none,
        rejectIndex := 0, tag := 0, poolPoints := 0, summary := none }) ∧
    (offered → State.sameBut [.bays, .link, .status] s (scanOffer b r s) ∧
      (∀ a, a ≠ b → (scanOffer b r s).bays.bays.get a = s.bays.bays.get a) ∧
      (scanOffer b r s).status =
        s.statusWith (s.recordWrites b [(0x00, 1, 1), (0x21, 1, 0), (0x22, 1, 0), (0x24, 4, 0), (0x28, 4, 0)]) ∧
      (scanOffer b r s).link = (raiseIf s.working .bay s).link) ∧
    (¬ offered → scanOffer b r s = s) ∧
    (r.withdraw = false → scanWithdraw b r s = s) ∧
    (r.withdraw = true → s.bayState b = .empty ∨ s.bayState b = .rejected ∨ s.bayState b = .released →
      scanWithdraw b r s = s) ∧
    (r.withdraw = true → s.bayState b ∈ [BayState.offered, .checking, .ready, .loading, .live] →
      (scanWithdraw b r s).bays.bays.get b =
        { s.bays.bays.get b with state := .released, goPending := false, summary := none } ∧
      State.sameBut [.bays, .reader, .link, .status] s (scanWithdraw b r s) ∧
      (∀ a, a ≠ b → (scanWithdraw b r s).bays.bays.get a = s.bays.bays.get a) ∧
      (scanWithdraw b r s).status = s.statusWith (s.recordWrites b [(0x00, 1, 8)]) ∧
      (scanWithdraw b r s).link = (raiseIf s.working .bay s).link ∧
      (s.bayState b = .checking → (scanWithdraw b r s).reader.checker = none) ∧
      (s.bayState b = .loading → (scanWithdraw b r s).reader.loader = none) ∧
      (s.bayState b = .live → (scanWithdraw b r s).bays.liveBay = none ∧
        (scanWithdraw b r s).bays.liveTag = s.bays.liveTag ∧ (scanWithdraw b r s).store = s.store)) ∧
    (r.goRequest = (s.bays.bays.get b).goTaken → scanGo b r s = s) ∧
    (r.goRequest ≠ (s.bays.bays.get b).goTaken →
      scanGo b r s = giveGo b (handFields (bayOffset b) [(0x20, 1, r.goRequest.toNat)]
        (modifyBay b (fun bay => { bay with goTaken := r.goRequest }) s)) ∧
      ((scanGo b r s).bays.bays.get b).goTaken = r.goRequest)

/-- The record writes of a load that starts: the other bays that are LOADING or STAGED, which become READY, then the bay itself
(R75, R88). -/
def loadWrites (s : State) (b : Fin 8) : List StatusRequest :=
  ((allOf 8).flatMap (fun a =>
    if a ≠ b ∧ (s.bayState a = .loading ∨ s.bayState a = .staged) then s.recordWrites a [(0x00, 1, 3)] else [])) ++
    s.recordWrites b [(0x00, 1, 4)]

/-- What a go does: a READY bay becomes LOADING, any other LOADING or STAGED bay becomes READY, and the Loader starts on the
bay's recorded address, length and summary, the changed states are handed to the status writer and BAY is raised while the device
works, while the Checker, the banks, the live bay and memory stay; an OFFERED or CHECKING
bay gets the go-pending mark; in every other state nothing changes. -/
def Obligations.GoGiven : Prop :=
  ∀ (s : State) (b : Fin 8),
    let bay := s.bays.bays.get b
    (s.bayState b = .ready →
      (∀ p ∈ [Part.pending, .device, .layout, .timing, .source, .capture, .store, .channels, .ports, .triggers, .arbiter,
        .memory], p.same s (giveGo b s)) ∧
      (giveGo b s).bayState b = .loading ∧
      (∀ a, a ≠ b → (giveGo b s).bayState a =
        if s.bayState a = .loading ∨ s.bayState a = .staged then .ready else s.bayState a) ∧
      (giveGo b s).reader.checker = s.reader.checker ∧
      (giveGo b s).reader.loader =
        some (startWalk s.layout b bay.address bay.length (some (planOf (bay.summary.getD emptySummary)))) ∧
      (giveGo b s).bays.liveBay = s.bays.liveBay ∧ (giveGo b s).bays.liveTag = s.bays.liveTag ∧
      (giveGo b s).status = s.statusWith (loadWrites s b) ∧
      (giveGo b s).link = (raiseIf s.working .bay s).link) ∧
    (s.bayState b = .offered ∨ s.bayState b = .checking →
      giveGo b s = modifyBay b (fun bay => { bay with goPending := true }) s) ∧
    (s.bayState b ∈ [BayState.loading, .staged, .live, .empty, .rejected, .released] → giveGo b s = s)

/-- CHECK_DONE with the Checker's result reached on the CHECKING bay: a verified bay keeps the summary, tag and points and is
READY, or LOADING where a go waited for it or auto_go is on; a rejected bay is REJECTED with its reason and index and without a
summary; the mark of a waiting go is cleared; then the lowest-numbered OFFERED bay becomes CHECKING and the Checker starts on
it, or stays idle. Each change is handed to the status writer in this order, and BAY is raised. That the check starts here also
after a response to an output frame start is R83 against the last row of R86 (log 47). -/
def Obligations.CheckDone : Prop :=
  ∀ (s : State) (w : Walk) (r : WalkResult), s.device.state = .running → s.reader.checker = some w → w.result = some r →
    s.bayState w.bay = .checking →
    let bay := s.bays.bays.get w.bay
    ∃ t, exec .checkDone s = .next t ∧
      (∀ p ∈ [Part.pending, .device, .layout, .timing, .source, .capture, .store, .channels, .ports, .triggers, .arbiter,
        .memory], p.same s t) ∧
      (r = .passed →
        t.bayState w.bay = (if bay.goPending || bay.autoGo then .loading else .ready) ∧
        (t.bays.bays.get w.bay).tag = w.summary.tag ∧ (t.bays.bays.get w.bay).poolPoints = w.poolSum ∧
        (t.bays.bays.get w.bay).summary = some w.summary ∧ (t.bays.bays.get w.bay).goPending = false) ∧
      (∀ reason index, r = .rejected reason index →
        t.bays.bays.get w.bay =
          { bay with state := .rejected, rejectReason := some reason, rejectIndex := index, goPending := false,
                     summary := none } ∧
        t.reader.loader = s.reader.loader) ∧
      (∀ b, lowest 8 (fun a => decide (s.bayState a = .offered)) = some b →
        t.bayState b = .checking ∧
        t.reader.checker =
          some (startWalk s.layout b (s.bays.bays.get b).address (s.bays.bays.get b).length none)) ∧
      ((∀ a, s.bayState a ≠ .offered) → t.reader.checker = none) ∧ t.link = (raiseNotice .bay s).link ∧
      (let result : List StatusRequest := match r with
        | .passed =>
            s.recordWrites w.bay [(0x00, 1, 3), (0x24, 4, w.summary.tag.toNat), (0x28, 4, w.poolSum)] ++
              (if bay.goPending || bay.autoGo then loadWrites s w.bay else [])
        | .rejected reason index => s.recordWrites w.bay [(0x00, 1, 7), (0x21, 1, reason.code), (0x22, 1, index)]
      t.status = s.statusWith (result ++
        match lowest 8 (fun a => decide (s.bayState a = .offered)) with
        | none => []
        | some b => s.recordWrites b [(0x00, 1, 2)]))

/-- LOAD_DONE with the Loader's result reached: the bay becomes STAGED, or REJECTED with its reason and index and without its
summary; its record's fields are handed to the status writer and BAY is raised while the device works; the Loader is idle; no
other bay, no bank and no byte of memory changes. -/
def Obligations.LoadDone : Prop :=
  ∀ (s : State) (w : Walk) (r : WalkResult), s.reader.loader = some w → w.result = some r →
    ∃ t, exec .loadDone s = .next t ∧
      (∀ p ∈ [Part.pending, .device, .layout, .timing, .source, .capture, .store, .channels, .ports, .triggers, .arbiter,
        .memory], p.same s t) ∧
      t.reader.loader = none ∧ t.reader.checker = s.reader.checker ∧
      (∀ a, a ≠ w.bay → t.bays.bays.get a = s.bays.bays.get a) ∧ t.bays.liveBay = s.bays.liveBay ∧
      (r = .passed → t.bays.bays.get w.bay = { s.bays.bays.get w.bay with state := .staged }) ∧
      (∀ reason index, r = .rejected reason index →
        t.bays.bays.get w.bay =
          { s.bays.bays.get w.bay with
            state := .rejected, rejectReason := some reason, rejectIndex := index, goPending := false,
            summary := none }) ∧
      t.link = (raiseIf s.working .bay s).link ∧
      t.status = s.statusWith (match r with
        | .passed => s.recordWrites w.bay [(0x00, 1, 5)]
        | .rejected reason index => s.recordWrites w.bay [(0x00, 1, 7), (0x21, 1, reason.code), (0x22, 1, index)])

/-- PASSED_EDGE while RUNNING with an edge waiting: the Bay Controller takes an edge of the earliest moment, whose edges are
the first that waits and those marked as passed together with it; which of them it takes is a free value (log 44). Taking the
edge of a line leaves the others waiting in their order, and it has no effect where a bound bay is LIVE, LOADING or STAGED; else
a go for the lowest-numbered bound READY bay; else the go-pending mark for the lowest-numbered bound OFFERED or CHECKING bay; else
the unserved count goes up by 1 and TRIGGER is raised. A line without an edge of the earliest moment has none to take. -/
def Obligations.PassedEdge : Prop :=
  (∀ (s : State) (e : Machine.PassedEdge) (rest : List Machine.PassedEdge), s.device.state = .running →
    s.triggers.edges = e :: rest →
    ∃ x ∈ e :: rest.takeWhile Machine.PassedEdge.together,
      exec .passedEdge s =
        .next (takeEdge x.line (s.setTriggers { s.triggers with choices := s.triggers.choices + 1 }))) ∧
  ∀ (s : State) (l : Fin 4), s.device.state = .running →
    (∀ (e : Machine.PassedEdge) (before after : List Machine.PassedEdge), s.triggers.edges = before ++ e :: after → e.line = l →
      (∀ x ∈ before, x.line ≠ l) → (∀ x ∈ (before ++ [e]).tail, x.together = true) →
      let u := s.setTriggers { s.triggers with edges := before ++ after }
      let bound (b : Fin 8) : Prop := (s.bays.bays.get b).binding = some (l, e.direction)
      let taken (b : Fin 8) : Prop := s.bayState b = .live ∨ s.bayState b = .loading ∨ s.bayState b = .staged
      let waiting (b : Fin 8) : Prop := s.bayState b = .offered ∨ s.bayState b = .checking
      ((∃ b, bound b ∧ taken b) → takeEdge l s = u) ∧
      (∀ b, (¬ ∃ a, bound a ∧ taken a) → bound b → s.bayState b = .ready →
        (∀ a < b, ¬ (bound a ∧ s.bayState a = .ready)) → takeEdge l s = giveGo b u) ∧
      (∀ b, (¬ ∃ a, bound a ∧ (taken a ∨ s.bayState a = .ready)) → bound b → waiting b →
        (∀ a < b, ¬ (bound a ∧ waiting a)) → takeEdge l s = modifyBay b (fun bay => { bay with goPending := true }) u) ∧
      ((¬ ∃ a, bound a ∧ (taken a ∨ s.bayState a = .ready ∨ waiting a)) →
        takeEdge l s = raiseNotice .trigger (u.setBays { u.bays with unserved := u.bays.unserved + 1 }))) ∧
    ((∀ x ∈ s.triggers.edges.head?, x.line ≠ l) → (∀ x ∈ s.triggers.edges.tail.takeWhile Machine.PassedEdge.together, x.line ≠ l) →
      takeEdge l s = s)

/-! ## Trigger lines -/

/-- The combined level of a line by its latched combine, and what a recomputation does: the combined level becomes that value,
and the delivery test follows at once. ASPECT_WIDE is 1 just while the link is present with an announcement of class WIDE;
PORT_p_DOWN is 1 just while an enabled channel is mapped to port p and the port is DOWN or TRAINING. That an OFF port gives 0
is the model's reading of R155 (log 37). -/
def Obligations.CombinedLevel : Prop :=
  ∀ (s : State) (l : Fin 4) (p : Fin 6),
    let line := s.triggers.lines.get l
    let alt := line.setup.alt.level s
    (AltSource.aspectWide.level s = true ↔ ∃ f, s.source.announcement = some f ∧ f.aspect = .wide) ∧
    ((AltSource.portDown p).level s = true ↔
      (∃ c, s.layout.portOf c = some p) ∧ ((s.ports.get p).state = .down ∨ (s.ports.get p).state = .training)) ∧
    (line.setup.combine = .pin → combinedNow l s = line.filtered) ∧
    (line.setup.combine = .alt → combinedNow l s = alt) ∧
    (line.setup.combine = .pinOrAlt → combinedNow l s = (line.filtered || alt)) ∧
    (line.setup.combine = .pinAndAlt → combinedNow l s = (line.filtered && alt)) ∧
    recompute l s = deliveryTest l (modifyLine l (fun line => { line with combined := combinedNow l s }) s) ∧
    ((recompute l s).triggers.lines.get l).combined = combinedNow l s ∧
    (∀ a, a ≠ l → (recompute l s).triggers.lines.get a = s.triggers.lines.get a)

/-- A delivery: the delivered level takes the combined level, the hold-off starts with the latched length (none for 0), and
the edge is passed, with a TRIGGER notice, just where the edge setting admits its direction: RISE for a rise, FALL for a
fall, BOTH for both, NONE for neither. The delivery test delivers just where the levels differ with no hold-off running. -/
def Obligations.EdgeDelivered : Prop :=
  ∀ (s : State) (l : Fin 4),
    let line := s.triggers.lines.get l
    let direction : Direction := if line.combined then .rise else .fall
    let passed := line.setup.edge = .both ∨ line.setup.edge = .rise ∧ direction = .rise ∨
      line.setup.edge = .fall ∧ direction = .fall
    (deliverEdge l s).triggers.lines.get l =
      { line with
        delivered := line.combined, holdOffActive := decide (line.setup.holdOff ≠ 0), holdOffLeft := line.setup.holdOff } ∧
    (∀ a, a ≠ l → (deliverEdge l s).triggers.lines.get a = s.triggers.lines.get a) ∧
    (passed → (deliverEdge l s).triggers.edges = s.triggers.edges ++ [⟨l, direction, false⟩] ∧
      (deliverEdge l s).link = (raiseNotice .trigger s).link) ∧
    (¬ passed → (deliverEdge l s).triggers.edges = s.triggers.edges ∧ (deliverEdge l s).link = s.link) ∧
    State.sameBut [.triggers, .link] s (deliverEdge l s) ∧
    (line.combined ≠ line.delivered ∧ line.holdOffActive = false → deliveryTest l s = deliverEdge l s) ∧
    (line.combined = line.delivered ∨ line.holdOffActive = true → deliveryTest l s = s)

/-- FILTERED_LEVEL_CHANGE on a line whose filter has reached its length: the filtered level takes the sample, the run count is
0, and the combined level is recomputed at the same event. HOLD_OFF_EXPIRY on a line whose hold-off has run down: where the
combined level equals the delivered level the hold-off ends; where they differ a catch-up edge is delivered, which restarts
the hold-off. -/
def Obligations.LineEvents : Prop :=
  ∀ (s : State) (l : Fin 4), s.triggers.runMark = true →
    let line := s.triggers.lines.get l
    (line.levelDue = true →
      ∃ t, exec (.filteredLevelChange l) s = .next t ∧ State.sameBut [.triggers, .link] s t ∧
        t = recompute l (modifyLine l (fun x => { x with filtered := line.pin, run := 0, levelDue := false }) s) ∧
        (t.triggers.lines.get l).filtered = line.pin ∧ (t.triggers.lines.get l).run = 0 ∧
        (t.triggers.lines.get l).combined = combinedNow l t) ∧
    (line.holdOffActive = true → line.holdOffLeft = 0 → line.combined = line.delivered →
      exec (.holdOffExpiry l) s = .next (modifyLine l (fun x => { x with holdOffActive := false }) s)) ∧
    (line.holdOffActive = true → line.holdOffLeft = 0 → line.combined ≠ line.delivered →
      exec (.holdOffExpiry l) s = .next (deliverEdge l s))

/-- SAMPLE_TICK. The events of the tick before that are still due come first (log 9): each line's level change and hold-off
expiry, then each port's presence change and timer expiries, the edges they pass marked as of one moment; with none due nothing
comes first. Then, while the run mark is set, each line's filter takes the sample of its pin (the run count is 0 for a sample
equal to the filtered level, else one higher, at most 255, with the change due where it reaches the length; for length 0 the
change is due at once and sets the count to 0 when it comes) and a running hold-off counts down; each port in DOWN, TRAINING or
UP samples its presence line toward 100, and a TRAINING port counts down its timer. Nothing else changes. -/
def Obligations.SampleTick : Prop :=
  (∀ (s : State) (l : Fin 4), ∃ x, exec (.filteredLevelChange l) s = .next x ∧
    exec (.holdOffExpiry l) x = .next (settleLine l s)) ∧
  (∀ (s : State) (p : Fin 6), ∃ x y z, exec (.presenceRise p) s = .next x ∧ exec (.presenceFall p) x = .next y ∧
    exec (.attemptTimerExpiry p) y = .next z ∧ exec (.retryTimerExpiry p) z = .next (settlePort p s)) ∧
  (∀ (s : State) (n : Nat), State.sameBut [.triggers] s (joinMoment n s) ∧
    (joinMoment n s).triggers =
      { s.triggers with
        edges := s.triggers.edges.take (n + 1) ++
          (s.triggers.edges.drop (n + 1)).map (fun e => { e with together := true }) }) ∧
  ∀ (s : State) (pins : BitVec 4) (presence : BitVec 6),
    let u := settleTick s
    u = joinMoment s.triggers.edges.length
      ((allOf 6).foldl (fun x p => settlePort p x) ((allOf 4).foldl (fun x l => settleLine l x) s)) ∧
    ((s.triggers.runMark = true → ∀ l, let line := s.triggers.lines.get l
        line.levelDue = false ∧ (line.holdOffActive = true → line.holdOffLeft ≠ 0)) →
      (∀ p, let port := s.ports.get p
        (port.state ≠ .off → port.presenceRun ≠ 100) ∧
        (port.state = .training → port.phase = some .attempt → port.attemptTimer ≠ 0) ∧
        (port.state = .training → port.phase = some .retryWait → port.retryTimer ≠ 0)) → u = s) ∧
    ∃ t, exec (.sampleTick pins presence) s = .next t ∧ State.sameBut [.triggers, .ports] u t ∧
      t.triggers.runMark = u.triggers.runMark ∧ t.triggers.edges = u.triggers.edges ∧
      t.triggers.choices = u.triggers.choices ∧
      (u.triggers.runMark = false → t.triggers.lines = u.triggers.lines) ∧
      (u.triggers.runMark = true → ∀ l,
        let old := u.triggers.lines.get l
        let new := t.triggers.lines.get l
        let sample := pins.getLsbD l.val
        new.setup = old.setup ∧ new.filtered = old.filtered ∧ new.combined = old.combined ∧
        new.delivered = old.delivered ∧ new.holdOffActive = old.holdOffActive ∧ new.pin = sample ∧
        (sample = old.filtered → new.run = 0 ∧ new.levelDue = false) ∧
        (sample ≠ old.filtered → old.setup.filter = 0 → new.levelDue = true ∧ new.run = old.run) ∧
        (sample ≠ old.filtered → 0 < old.setup.filter →
          new.run = min (old.run + 1) 255 ∧ (new.levelDue = true ↔ old.setup.filter ≤ min (old.run + 1) 255)) ∧
        new.holdOffLeft = if old.holdOffActive then old.holdOffLeft - 1 else old.holdOffLeft) ∧
      (∀ p,
        let old := u.ports.get p
        let sample := presence.getLsbD p.val
        t.ports.get p =
          { old with
            presenceLine := if old.state = .off then old.presenceLine else sample
            presenceRun :=
              if old.state = .off then old.presenceRun else if sample = old.presence then 0 else min (old.presenceRun + 1) 100
            attemptTimer :=
              if old.state = .training ∧ old.phase = some .attempt then old.attemptTimer - 1 else old.attemptTimer
            retryTimer :=
              if old.state = .training ∧ old.phase = some .retryWait then old.retryTimer - 1 else old.retryTimer })

/-! ## Projector link ports -/

/-- What a change of port `p` alone may touch: the port, NOTICE, its channel's rendering, and the trigger lines. -/
def portChange (p : Fin 6) (s t : State) : Prop :=
  State.sameBut [.ports, .link, .channels, .triggers, .status] s t ∧ (∀ q, q ≠ p → t.ports.get q = s.ports.get q) ∧
  t.link.areaBase = s.link.areaBase ∧ t.link.noticeEnable = s.link.noticeEnable ∧ t.link.queue = s.link.queue ∧
  (∀ c, s.layout.channelOf p ≠ some c → t.channels.get c = s.channels.get c) ∧
  ((s.ports.get p).state ≠ (t.ports.get p).state → s.device.state = .running ∨ s.device.state = .stopping →
    t.noticed .channel = true) ∧
  ((s.ports.get p).state = .up → (t.ports.get p).state ≠ .up →
    ∀ c, s.layout.channelOf p = some c → (t.channels.get c).rendering = false) ∧
  ((t.ports.get p).state = .up ∨ (s.ports.get p).state ≠ .up → t.channels = s.channels)

/-- PRESENCE_RISE and PRESENCE_FALL where the 100th differing sample has come: a rise makes a DOWN port TRAINING with an attempt
of 500 ticks and leaves the state of the others; a fall makes the port DOWN with failures 0, abandoning an attempt. That
the timers then keep their values is log 33, the number of the attempt log 38. -/
def Obligations.PresenceChanged : Prop :=
  ∀ (s : State) (p : Fin 6), (s.ports.get p).state ≠ .off → (s.ports.get p).presenceRun = 100 →
    let old := s.ports.get p
    (old.presence = false → ∃ t, exec (.presenceRise p) s = .next t ∧ portChange p s t ∧ t.status = s.status ∧
      (old.state = .down → t.ports.get p =
        { old with
          presence := true, presenceRun := 0, state := .training, phase := some .attempt, attempt := old.attempt + 1,
          attemptTimer := 500 }) ∧
      (old.state ≠ .down → t.ports.get p = { old with presence := true, presenceRun := 0 })) ∧
    (old.presence = true → ∃ t, exec (.presenceFall p) s = .next t ∧ portChange p s t ∧ t.status = s.status ∧
      t.ports.get p = { old with presence := false, presenceRun := 0, state := .down, phase := none, failures := 0 })

/-- Training. LOSS_OF_LOCK in UP starts an attempt of 500 ticks at once, with the failures as they are; in every other state it
changes nothing. At the end of an attempt success makes the port UP with failures 0; a failure, by TRAINING_DONE or by
ATTEMPT_TIMER_EXPIRY with the timer at 0, adds 1 to the failures and begins a retry wait of 1000 ticks, or at the third makes
the port DOWN with failures 3 and takes a LINK fault whose detail is the port number. RETRY_TIMER_EXPIRY with the timer at 0
starts the next attempt. TRAINING_DONE without an attempt in progress, or of another attempt than that, is discarded (attempts
are told apart by their numbers, log 38). That a timer keeps its value outside its phase is log 33. -/
def Obligations.Training : Prop :=
  ∀ (s : State) (p : Fin 6),
    let old := s.ports.get p
    let attempting := old.state = .training ∧ old.phase = some .attempt
    (old.state = .up → ∃ t, exec (.lossOfLock p) s = .next t ∧ portChange p s t ∧ t.status = s.status ∧
      t.ports.get p =
        { old with state := .training, phase := some .attempt, attempt := old.attempt + 1, attemptTimer := 500 }) ∧
    (old.state ≠ .up → exec (.lossOfLock p) s = .next s) ∧
    (attempting → ∃ t, exec (.trainingDone p ⟨old.attempt, true⟩) s = .next t ∧ portChange p s t ∧ t.status = s.status ∧
      t.ports.get p = { old with state := .up, phase := none, failures := 0 }) ∧
    (attempting → ∃ t, exec (.trainingDone p ⟨old.attempt, false⟩) s = .next t ∧ portChange p s t ∧
      (old.attemptTimer = 0 → exec (.attemptTimerExpiry p) s = .next t) ∧
      (old.failures + 1 < 3 → t.status = s.status ∧
        t.ports.get p = { old with failures := old.failures + 1, phase := some .retryWait, retryTimer := 1000 }) ∧
      (3 ≤ old.failures + 1 → t.ports.get p = { old with state := .down, phase := none, failures := 3 } ∧
        t.status =
          { s.status with fault := s.status.fault.take .link (BitVec.ofNat 32 p.val) s.timing.frame })) ∧
    (old.state = .training → old.phase = some .retryWait → old.retryTimer = 0 →
      ∃ t, exec (.retryTimerExpiry p) s = .next t ∧ portChange p s t ∧ t.status = s.status ∧
        t.ports.get p = { old with phase := some .attempt, attempt := old.attempt + 1, attemptTimer := 500 }) ∧
    (∀ n success, ¬ attempting ∨ n ≠ old.attempt → exec (.trainingDone p ⟨n, success⟩) s = .next s)


/-! ## Events without a cause -/

/-- A command that comes where the state gives it no cause changes nothing. START outside IDLE and STOP in IDLE and STOPPING
are the spec's; the others are events that cannot come there, and the model's choice (log 4). -/
def Obligations.EventsWithoutCause : Prop :=
  ∀ (s : State) (l : Fin 4) (p c : Fin 6) (k : StartOrder) (now size : Nat) (pins : BitVec 4) (f : Format),
    let port := s.ports.get p
    let line := s.triggers.lines.get l
    (s.link.queue = [] → s.device.state ≠ .idle → exec .start s = .next s) ∧
    (s.link.queue = [] → s.device.state = .idle ∨ s.device.state = .stopping → exec .stop s = .next s) ∧
    (s.readsReturned = false → exec (.validationDone now pins) s = .next s) ∧
    (s.timing.nextStart = none ∨ s.timing.state = .stopped → exec (.outputFrameStart k) s = .next s) ∧
    (s.timing.awaits = none → exec (.missingStartDeadline k) s = .next s) ∧
    (s.source.announcement = none → exec (.formatAnnouncement f) s = .next s) ∧
    (s.capture.fillWritten = false → exec .fillDone s = .next s) ∧
    ((∀ w, s.reader.checker = some w → w.result = none) → exec .checkDone s = .next s) ∧
    ((∀ w, s.reader.loader = some w → w.result = none) → exec .loadDone s = .next s) ∧
    (s.triggers.edges = [] ∨ s.device.state ≠ .running → exec .passedEdge s = .next s) ∧
    (s.triggers.runMark = false ∨ line.levelDue = false → exec (.filteredLevelChange l) s = .next s) ∧
    (s.triggers.runMark = false ∨ line.holdOffActive = false ∨ line.holdOffLeft ≠ 0 →
      exec (.holdOffExpiry l) s = .next s) ∧
    (port.state = .off ∨ port.presenceRun ≠ 100 ∨ port.presence = true → exec (.presenceRise p) s = .next s) ∧
    (port.state = .off ∨ port.presenceRun ≠ 100 ∨ port.presence = false → exec (.presenceFall p) s = .next s) ∧
    (port.state ≠ .training ∨ port.phase ≠ some .attempt ∨ port.attemptTimer ≠ 0 →
      exec (.attemptTimerExpiry p) s = .next s) ∧
    (port.state ≠ .training ∨ port.phase ≠ some .retryWait ∨ port.retryTimer ≠ 0 →
      exec (.retryTimerExpiry p) s = .next s) ∧
    ((∀ r, waits s r = false) → exec (.burstGrant size) s = .next s) ∧
    ((s.channels.get c).rendering = false ∨ s.layout.rasterPixels ≤ (s.channels.get c).nextPixel ∨
      dataArrived s c = false → exec (.renderPixel c) s = .next s) ∧
    (s.layout.rasterPixels ≤ port.position → exec (.pixelDue p) s = .next s)

/-! ## The host link -/

/-- Accesses are held in the order the link delivers them. A host read or write of bytes that frame memory has is put behind
those held and performed at its grant; one that runs past the end stops by name (log 26), one of no bytes does nothing. A
register access waits behind those held and changes nothing yet (log 7); REGISTER_WRITE_IGNORED changes nothing when its turn
comes. -/
def Obligations.LinkOrder : Prop :=
  ∀ (s : State) (address length : Nat) (data : List Byte) (r : ReadOnlyRegister) (w : RegWrite),
    let behind (a : LinkAccess) : Result := .next (s.setLink { s.link with queue := s.link.queue ++ [a] })
    (data ≠ [] → address + data.length ≤ 2147483648 →
      exec (.hostWrite address data) s = behind (.write address data)) ∧
    (0 < length → address + length ≤ 2147483648 → exec (.hostRead address length) s = behind (.read address length [])) ∧
    (2147483648 < address + data.length →
      exec (.hostWrite address data) s = .fault (.outsideFrameMemory address data.length)) ∧
    (2147483648 < address + length → exec (.hostRead address length) s = .fault (.outsideFrameMemory address length)) ∧
    (address ≤ 2147483648 → exec (.hostWrite address []) s = .next s ∧ exec (.hostRead address 0) s = .next s) ∧
    (s.link.queue = [] → exec (.registerWriteIgnored r w) s = .next s) ∧
    (s.link.queue ≠ [] →
      exec .start s = behind (.register .start) ∧ exec .stop s = behind (.register .stop) ∧
      exec .reset s = behind (.register .reset) ∧ exec (.areaBaseWrite w) s = behind (.register (.areaBase w)) ∧
      exec (.noticeClear w) s = behind (.register (.notice w)) ∧
      exec (.noticeEnableWrite w) s = behind (.register (.noticeEnable w)) ∧
      exec (.registerWriteIgnored r w) s = behind (.register .ignored))

/-- The host link's burst, at its grant. A write stores its bytes as far as the 256-byte block of its first byte goes, a read
takes them likewise, and what is left stands first; a read that is complete returns every byte it has taken; the register
accesses that stood behind a complete access are performed, and the next memory access is then first. How far a burst goes is
log 6, that a burst is one piece a grant log 5, that the register accesses are performed there log 7. -/
def Obligations.HostBurst : Prop :=
  ∀ (s : State) (size address length : Nat) (data got : List Byte) (rest : List LinkAccess),
    nextGrant s = some .hostLink →
    let piece (n : Nat) : Nat := min n (256 - address % 256)
    let taken := got ++ s.memory.readBytes address (piece length)
    (s.link.queue = .write address data :: rest →
      (piece data.length < data.length → ∃ t, exec (.burstGrant size) s = .next t ∧
        State.sameBut [.link, .memory, .status] s t ∧
        t.memory = s.memory.writeBurst (placed address (data.take (piece data.length))) ∧
        t.link.queue = .write (address + piece data.length) (data.drop (piece data.length)) :: rest) ∧
      (piece data.length = data.length →
        exec (.burstGrant size) s = .next (drain rest (afterWrite (placed address data) s)))) ∧
    (s.link.queue = .read address length got :: rest →
      (piece length < length → ∃ t, exec (.burstGrant size) s = .next t ∧
        State.sameBut [.link, .memory, .status] s t ∧ (∀ a, t.memory.read a = s.memory.read a) ∧
        t.link.queue = .read (address + piece length) (length - piece length) taken :: rest) ∧
      (piece length = length → ∃ t, exec (.burstGrant size) s = .next (drain rest t) ∧
        State.sameBut [.link, .memory, .status] s t ∧ (∀ a, t.memory.read a = s.memory.read a) ∧
        t.link.lastRead = some ⟨address - got.length, taken⟩)) ∧
    (∀ t, drain [] t = t.setLink { t.link with queue := [] }) ∧
    (∀ t a, a.isMemory = true → drain (a :: rest) t = t.setLink { t.link with queue := a :: rest }) ∧
    (∀ t a, drain (.register a :: rest) t = drain rest (performRegister a (t.setLink { t.link with queue := rest })))

/-! ## The Fetch Arbiter -/

/-- Who waits, and who is granted: the capture writer; the edition reader where the share counter stands at 2^k; the first
fetcher in the order after the pointer; the host link; the edition reader; the status writer. A fetcher's grant moves the
pointer to it and raises the share counter as far as 2^k, a grant to the edition reader sets the counter to 0, and the other
grants leave both. -/
def Obligations.GrantOrder : Prop :=
  ∀ (s : State) (size : Nat),
    let a := s.arbiter
    let full := a.share = 2 ^ a.exponent
    let capture := waits s .captureWriter = true
    let edition := waits s .editionReader = true
    let fetcher (c : Fin 6) : Prop := waits s (.fetcher c) = true
    let host := waits s .hostLink = true
    let granted (r : Requester) (b : Arbiter) : Prop := exec (.burstGrant size) s = .next (performBurst size r (s.setArbiter b))
    (capture ↔ ∃ p rest, s.capture.fifo = p :: rest ∧ p.slot.isSome = true) ∧
    (∀ c, fetcher c ↔ ∃ r, nextRow s c = some r) ∧
    (host ↔ ∃ x rest, s.link.queue = x :: rest ∧ x.isMemory = true) ∧
    (edition ↔ ∃ u, s.reader.presented = some u) ∧
    (waits s .statusWriter = true ↔ s.status.queue ≠ []) ∧
    (capture → granted .captureWriter a) ∧
    (¬ capture → edition → full → granted .editionReader { a with share := 0 }) ∧
    (¬ capture → ¬ (edition ∧ full) → ∀ c, fetcher c →
      (∀ d, fetcher d → (c.val + 5 - a.pointer.val) % 6 ≤ (d.val + 5 - a.pointer.val) % 6) →
      (full → granted (.fetcher c) { a with pointer := c }) ∧
      (¬ full → granted (.fetcher c) { a with pointer := c, share := a.share + 1 })) ∧
    (¬ capture → ¬ (edition ∧ full) → (∀ c, ¬ fetcher c) →
      (host → granted .hostLink a) ∧
      (¬ host → edition → granted .editionReader { a with share := 0 }) ∧
      (¬ host → ¬ edition → s.status.queue ≠ [] → granted .statusWriter a))

/-- The bursts of the capture writer, a channel fetcher and the status writer. The capture writer takes pixels of one row that
follow one another from the head of the FIFO and stores each as four bytes at its slot address; its burst lies in one block and,
where the FIFO holds the row's next pixel, ends with a word. A fetcher adds the next bytes, from column 0 upward (log 50), of
the row it reads to its channel's window, and with no requested row left to read it requests the next one, which enters the
window: while the window holds fewer than 130 rows, the first row, in the order in which the frame's pixels first need them (one
row requested at a time, and a pixel's own row before its neighbour row: log 21), that a pixel left needs and the window does
not hold. The row it reads is the first of the window that is not whole. The status writer performs the request it holds first:
a write is stored, a read of a START is returned while it is wanted. -/
def Obligations.PartBursts : Prop :=
  ∀ (s : State) (size : Nat),
    (∀ p rest n, s.capture.fifo = p :: rest → p.slot = some n →
      ∃ t run, exec (.burstGrant size) s = .next t ∧ State.sameBut [.capture, .memory, .status, .link] s t ∧
        s.capture.fifo = run ++ t.capture.fifo ∧ run ≠ [] ∧
        t.capture = { s.capture with fifo := t.capture.fifo } ∧
        (∀ (i : Nat) q, run[i]? = some q → q.slot = some n ∧ q.row = p.row ∧ q.column = p.column + i) ∧
        (let first := s.capture.slotBase + n.val * s.capture.slotSize + (p.row * s.capture.wc + p.column) * 4;
          first % 4 = 0 → first % 256 + 4 * run.length ≤ 256 ∧ 4 * run.length ≤ max 8 size ∧
            (∀ q, t.capture.fifo.head? = some q → q.slot = some n → q.row = p.row → q.column = p.column + run.length →
              (first + 4 * run.length) % 8 = 0)) ∧
        t.memory = s.memory.writeBurst (run.flatMap (fun q =>
          placed (s.capture.slotBase + n.val * s.capture.slotSize + (q.row * s.capture.wc + q.column) * 4)
            (leBytes 4 (pixelWord q.codes)))) ∧ t.status.queue = s.status.queue) ∧
    (∀ c r n, nextGrant s = some (.fetcher c) → nextRow s c = some r → s.capture.readingSlot = some n →
      let address := s.capture.slotBase + n.val * s.capture.slotSize + r.row * s.capture.wc * 4 + r.got.length
      let stored (bytes : List Byte) : List WindowRow :=
        (s.channels.get c).window.map (fun w => if w.row = r.row then ⟨w.row, w.got ++ bytes⟩ else w)
      let length := burstSize size address (4 * s.capture.wc - r.got.length)
      ∃ t, exec (.burstGrant size) s = .next t ∧
        State.sameBut [.arbiter, .channels, .memory, .status, .link] s t ∧
        t.channels.get c =
          { s.channels.get c with window := request t c (stored (s.memory.readBytes address length)) } ∧
        (∀ d, d ≠ c → t.channels.get d = s.channels.get d) ∧ (∀ a, t.memory.read a = s.memory.read a)) ∧
    (∀ cells rest, nextGrant s = some .statusWriter → s.status.queue = .write cells :: rest →
      ∃ t, exec (.burstGrant size) s = .next t ∧ State.sameBut [.memory, .status, .link] s t ∧
        t.memory = s.memory.writeBurst cells ∧ t.status.queue = rest ∧
        t.status.snapshotCount = s.status.snapshotCount) ∧
    (∀ block address length wanted rest, nextGrant s = some .statusWriter →
      s.status.queue = .startRead block address length wanted :: rest →
      ∃ t, exec (.burstGrant size) s = .next t ∧ State.sameBut [.device, .memory, .status, .link] s t ∧
        t.device =
          { s.device with
            returned :=
              if wanted then s.device.returned ++ [(block, s.memory.readBytes address length)] else s.device.returned } ∧
        t.status.queue = rest ∧ (∀ a, t.memory.read a = s.memory.read a)) ∧
    (∀ (c : Fin 6) (window : List WindowRow),
      let ch := s.channels.get c
      let needed (row : Nat) : Prop :=
        ∃ m, ch.nextPixel ≤ m ∧ m < s.layout.rasterPixels ∧ ∃ p ∈ needsOf s c m, p.2 = row
      let wanted (row : Nat) : Prop := needed row ∧ ∀ r ∈ window, r.row ≠ row
      let asks := ch.rendering = true ∧ (∀ r ∈ window, 4 * s.capture.wc ≤ r.got.length) ∧ window.length < 130
      (∀ row, rowNeeded s c row = true ↔ needed row) ∧
      (∀ r, nextRow s c = some r ↔ ch.rendering = true ∧ ∃ before after, ch.window = before ++ r :: after ∧
        (∀ q ∈ before, 4 * s.capture.wc ≤ q.got.length) ∧ r.got.length < 4 * s.capture.wc) ∧
      (¬ asks ∨ (∀ row, ¬ wanted row) → request s c window = window) ∧
      (∀ n p before after, asks → n < s.layout.rasterPixels → needsOf s c n = before ++ p :: after → wanted p.2 →
        (∀ q ∈ before, ¬ wanted q.2) → (∀ m < n, ∀ q ∈ needsOf s c m, ¬ wanted q.2) →
        request s c window = window ++ [⟨p.2, []⟩]))

/-- The edition reader's burst: the bytes go to the walk whose read was presented; the bank select and the active bank stay, the
Checker writes no table, and the Loader writes the staging bank alone; a burst with an uncorrectable word ends the walk with
MEMORY at the item being read, and nothing is written from it. That an extent is read from its first address upward is the
model's choice (log 51). -/
def Obligations.EditionBurst : Prop :=
  ∀ (s : State) (size : Nat) (user : Reader) (w : Walk) (job : ReadJob), nextGrant s = some .editionReader →
    s.reader.presented = some user → s.reader.walk user = some w → w.read = some job →
    let length := burstSize size job.address job.left
    let failed := ∃ a, job.address ≤ a ∧ a < job.address + length ∧ s.memory.errorAt (a / 8) = some .uncorrectable
    ∃ t v, exec (.burstGrant size) s = .next t ∧
      State.sameBut [.arbiter, .reader, .store, .memory, .status, .link] s t ∧
      t.arbiter = { s.arbiter with share := 0 } ∧ (∀ a, t.memory.read a = s.memory.read a) ∧
      t.status.queue = s.status.queue ∧ t.store.select = s.store.select ∧ t.store.active = s.store.active ∧
      (w.plan = none → t.store = s.store) ∧ t.reader.walk user = some v ∧
      (∀ other, other ≠ user → t.reader.walk other = s.reader.walk other) ∧
      (failed → t.store = s.store ∧ v.read = none ∧ v.result = some (.rejected .memory w.index)) ∧
      (¬ failed → length < job.left → t.store = s.store ∧
        v = { w with read := some ⟨job.address + length, job.left - length,
                job.got ++ s.memory.readBytes job.address length⟩ }) ∧
      (¬ failed → job.left ≤ length →
        let result := ({ w with read := none } : Walk).consume s.layout (job.got ++ s.memory.readBytes job.address length)
        v = result.1 ∧ t.store.staging = result.2.foldl Bank.write s.store.staging)

/-- The tests of an edition as a whole at the start of a walk, in their order, and of an extent: the first that fails rejects
with its reason and, for the edition, index 0; a walk that passes reads item 0's header, its 4 bytes first (log 13). A load
makes the same tests, reports a failure as CHANGED, and else starts the same walk with its plan. -/
def Obligations.EditionTests : Prop :=
  ∀ (l : Layout) (b : Fin 8) (address length last count element : Nat),
    let w := startWalk l b address length none
    let sized := 32 ≤ length ∧ length ≤ 4096 ∧ length % 16 = 0
    let placed := l.arenaLow ≤ address ∧ address + length ≤ l.arenaHigh
    let first : Int := (last : Int) - ((count : Int) - 1) * element
    let inside := (l.arenaLow : Int) ≤ first ∧ last + element ≤ l.arenaHigh
    (¬ sized → w.read = none ∧ w.result = some (.rejected .length 0)) ∧
    (sized → address % 16 ≠ 0 → w.read = none ∧ w.result = some (.rejected .align 0)) ∧
    (sized → address % 16 = 0 → ¬ placed → w.read = none ∧ w.result = some (.rejected .bounds 0)) ∧
    (sized → address % 16 = 0 → placed → w.result = none ∧ w.read = some ⟨address, 4, []⟩ ∧ w.index = 0 ∧
      w.scope = none ∧ w.poolSum = 0) ∧
    (∀ plan : LoadPlan, let v := startWalk l b address length (some plan)
      (sized ∧ address % 16 = 0 ∧ placed → v = { w with plan := some plan }) ∧
      (¬ (sized ∧ address % 16 = 0 ∧ placed) → v.read = none ∧ v.result = some (.rejected .changed 0) ∧
        v.plan = some plan)) ∧
    (first % 8 ≠ 0 → extentFailure l last count element = some .align) ∧
    (first % 8 = 0 → ¬ inside → extentFailure l last count element = some .bounds) ∧
    (first % 8 = 0 → inside → extentFailure l last count element = none)

/-- The tests of an item, of the Checker and the Loader alike, in their order. Structure: a length of 0 or past the declared
length gives LENGTH, an unknown kind KIND, a length below the kind's least LENGTH. Position: HEAD stands at index 0 and nowhere
else. HEAD must have the raster. SELECT must name a channel; a channel item before it gives SELECT. In an untaken scope an
extent alone is tested. In a taken scope a mark that a channel of the scope already holds gives DUPLICATE, then come the field
tests, then the extent. DECODE is tested in no scope. The field tests of a MESH are SPACING, COVERAGE, MESH_SIZE, in this order;
its contents give RANGE before SPAN. At END a channel without a mesh gives MISSING_MESH, then a pool sum above 65,536 gives POOL,
then, in a load, what differs from the summary gives CHANGED; a load reports every failure but MEMORY as CHANGED. -/
def Obligations.ItemTests : Prop :=
  ∀ (l : Layout) (w : Walk) (item : List Byte) (scope : BitVec 6),
    let code := field item 0 1
    let units := field item 2 2
    let past := units = 0 ∨ w.length < w.offset + 16 * units
    let least : ItemKind → Nat
      | .matrix => 2
      | .ramp => 3
      | _ => 1
    let sound (k : ItemKind) : Prop := ¬ past ∧ itemKindOf code = some k ∧ least k ≤ units
    let judged := judgeWhole l w item
    let mesh := parseMesh item
    let table := parseTable item
    let meshExtent := extentFailure l mesh.last mesh.count (if mesh.formatCode = 1 then 16 else 8)
    let tableExtent := extentFailure l table.2 table.1 2
    let outcome (failure : Option RejectReason) (a : ItemAction) : RejectReason ⊕ ItemAction :=
      match failure with
      | some r => .inl r
      | none => .inr a
    let channelKinds : List ItemKind := [.mesh, .matrix, .ramp, .uplift, .encode]
    ([1, 2, 3, 4, 5, 6, 7, 8, 14, 15].map itemKindOf =
      [some .head, some .select, some .mesh, some .matrix, some .ramp, some .uplift, some .encode, some .decode, some .pad,
        some .endItem] ∧
      ∀ n, n ∉ [1, 2, 3, 4, 5, 6, 7, 8, 14, 15] → itemKindOf n = none) ∧
    (past → judged = .inl .length) ∧
    (¬ past → itemKindOf code = none → judged = .inl .kind) ∧
    (∀ k, ¬ past → itemKindOf code = some k → units < least k → judged = .inl .length) ∧
    (∀ k, sound k → (w.index = 0 ↔ k ≠ .head) → judged = .inl .header) ∧
    (sound .head → w.index = 0 →
      judged = if field item 8 2 = l.wr ∧ field item 10 2 = l.hr then .inr (.headTag (BitVec.ofNat 32 (field item 4 4)))
        else .inl .raster) ∧
    (∀ (mask : Nat) (c : Fin 6), (l.scopeOf mask).getLsbD c.val = (mask.testBit c.val && l.isEnabled c)) ∧
    (w.index ≠ 0 →
      (sound .select → judged = if field item 4 1 % 64 = 0 then .inl .select
        else .inr (.openScope (l.scopeOf (field item 4 1 % 64)))) ∧
      (∀ k ∈ channelKinds, sound k → w.scope = none → judged = .inl .select) ∧
      (w.scope = some 0 → (∀ k ∈ [ItemKind.matrix, .ramp, .uplift], sound k → judged = .inr .nothing) ∧
        (sound .mesh → judged = outcome meshExtent .nothing) ∧ (sound .encode → judged = outcome tableExtent .nothing)) ∧
      (w.scope = some scope → scope ≠ 0 →
        let fresh (k : ItemKind) : Prop := ∀ c < 6, scope.getLsbD c = true → (w.marks.of k).getLsbD c = false
        (∀ k ∈ channelKinds, sound k → ¬ fresh k → judged = .inl .duplicate) ∧
        (∀ k ∈ [ItemKind.matrix, .ramp, .uplift], sound k → fresh k → judged = .inr (.takeValues scope k)) ∧
        (sound .mesh → fresh .mesh → judged = match meshLegality l mesh with
          | some r => .inl r
          | none => outcome meshExtent (.takeMesh scope mesh)) ∧
        (sound .encode → fresh .encode → judged = if table.1 ≠ 1025 then .inl .tableSize
          else outcome tableExtent (.takeEncode scope table.1 table.2))) ∧
      (sound .decode → judged = if w.marks.decode = true then .inl .duplicate else if table.1 ≠ 1024 then .inl .tableSize
        else outcome tableExtent (.takeDecode table.1 table.2)) ∧
      (sound .pad → judged = .inr .nothing) ∧ (sound .endItem → judged = .inr .finish)) ∧
    (∀ m : MeshItem,
      let s := 16 * 2 ^ m.spacingCode
      let unknown := 3 < m.spacingCode ∨ 1 < m.formatCode
      let uncovered := m.columns ≠ (l.wr + s - 1) / s + 1 ∨ m.rows ≠ (l.hr + s - 1) / s + 1 ∨ m.count ≠ m.columns * m.rows
      meshLegality l m = if unknown then some .spacing else if uncovered then some .coverage
        else if 16641 < m.columns * m.rows then some .meshSize else none) ∧
    (∀ (points : List MeshPoint) (columns rows : Nat),
      let outside (p : MeshPoint) : Prop := p.u < -524288 ∨ 524287 < p.u ∨ p.v < -524288 ∨ 524287 < p.v
      let corners (i j : Nat) : List MeshPoint := [(i, j), (i + 1, j), (i, j + 1), (i + 1, j + 1)].map
        (fun q => points.getD (q.2 * columns + q.1) blankPoint)
      let tall := ∃ i j, i + 1 < columns ∧ j + 1 < rows ∧ (∀ a ∈ corners i j, a.void = false) ∧
        ∃ a ∈ corners i j, ∃ b ∈ corners i j, 8192 < a.v - b.v
      ((∃ p ∈ points, outside p) → meshContents points columns rows = some .range) ∧
      ((∀ p ∈ points, ¬ outside p) → tall → meshContents points columns rows = some .span) ∧
      ((∀ p ∈ points, ¬ outside p) → ¬ tall → meshContents points columns rows = none)) ∧
    (∀ r, w.reason r = if w.plan.isSome = true ∧ r ≠ .memory then .changed else r) ∧
    (∀ (recorded : CheckSummary) (m : MeshItem), meshChanged recorded scope m = true ↔
      ∃ c : Fin 6, scope.getLsbD c.val = true ∧ recorded.meshes.get c ≠ some m.geometry) ∧
    (let missing := ∃ c : Fin 6, l.isEnabled c = true ∧ w.marks.mesh.getLsbD c.val = false
      let differs (r : CheckSummary) := w.index ≠ r.endIndex ∨ w.marks.decode ≠ r.decodeTaken ∨
        ∃ c : Fin 6, (r.meshes.get c).isSome = true ∧ w.marks.mesh.getLsbD c.val = false
      let refused (r : RejectReason) : Prop :=
        (w.finish l).1.result = some (.rejected (w.reason r) w.index) ∧ (w.finish l).1.read = none ∧ (w.finish l).2 = []
      let passed (writes : List BankWrite) : Prop :=
        w.finish l = ({ w with summary := { w.summary with endIndex := w.index }, read := none, result := some .passed },
          writes)
      (missing → refused .missingMesh) ∧ (¬ missing → 65536 < w.poolSum → refused .pool) ∧
      (¬ missing → w.poolSum ≤ 65536 → w.plan = none → passed []) ∧
      ∀ p, ¬ missing → w.poolSum ≤ 65536 → w.plan = some p →
        (differs p.recorded → refused .changed) ∧ (¬ differs p.recorded → passed [.finish w.marks]))

/-- What an item that has passed its tests does, in a check (no plan) and in a load (a plan with the summary and the pool
bases). The walk goes on at the next item, or ends with LENGTH at the number of items walked, at most 255, where none is left.
HEAD records the tag, which a load compares; SELECT opens its scope; MATRIX, RAMP and UPLIFT set their marks, and a load writes
their values, clamped, for each channel of the scope; a MESH that the summary does not record so ends a load, else its points
are read, and when they pass it sets its marks, adds to the pool sum, is recorded for each channel of the scope, and a load
writes its points at each channel's base; ENCODE and DECODE set their marks at once in a check, and in a load once their entries
are read and written, encode entries clamped. A check writes nothing. An item is read as its 4-byte header and then the rest of
the bytes its layout names, and its tests are made on the bytes together. That the header's 4 bytes are one read is the model's
choice (log 13), and so is that the contents' read ends with the last named byte (log 43); that a mesh's points are judged and
written only when all are read, and that a load compares the MESH with the summary before it reads them, is the model's choice
too (log 14). The order of the reads of points and entries is log 51. -/
def Obligations.ItemsTaken : Prop :=
  ∀ (l : Layout) (w : Walk) (item bytes : List Byte) (scope : BitVec 6) (plan : LoadPlan),
    let next := w.offset + 16 * w.units
    let named : Nat → Nat
      | 1 => 12
      | 2 => 5
      | 3 => 16
      | 4 => 22
      | 5 => 38
      | 6 => 10
      | 7 => 12
      | 8 => 12
      | _ => 0
    let more := min (named (field bytes 0 1)) (w.length - w.offset) - 4
    let marked (k : ItemKind) (c : Fin 6) (j : ItemKind) : Prop :=
      ((w.marks.take scope k).of j).getLsbD c.val =
        ((w.marks.of j).getLsbD c.val || decide (j = k) && scope.getLsbD c.val)
    let each (f : Fin 6 → BankWrite) : List BankWrite :=
      ((allOf 6).filter (fun c => scope.getLsbD c.val)).map f
    let extent (last count element : Nat) : Option ReadJob :=
      some ⟨((last : Int) - ((count : Int) - 1) * element).toNat, count * element, []⟩
    (w.length ≤ next → w.advance.read = none ∧
      w.advance.result = some (.rejected (w.reason .length) (min (w.index + 1) 255))) ∧
    (next < w.length → w.advance =
      { w with
        index := w.index + 1, offset := next, phase := .header, read := some ⟨w.address + next, 4, []⟩ }) ∧
    (w.phase = .header → 0 < more → w.consume l bytes =
      ({ w with phase := .contents, item := bytes, read := some ⟨w.address + w.offset + 4, more, []⟩ }, [])) ∧
    (∀ whole, w.phase = .header ∧ more = 0 ∧ whole = bytes ∨ w.phase = .contents ∧ whole = w.item ++ bytes →
      (∀ r, judgeWhole l w whole = .inl r →
        w.consume l bytes = ({ w with read := none, result := some (.rejected (w.reason r) w.index) }, [])) ∧
      (∀ a, judgeWhole l w whole = .inr a →
        w.consume l bytes = ({ w with units := field whole 2 2 } : Walk).act l whole a)) ∧
    (∀ k ∈ [ItemKind.mesh, .matrix, .ramp, .uplift, .encode], ∀ c, ∀ j ∈ [ItemKind.mesh, .matrix, .ramp, .uplift, .encode],
      marked k c j) ∧
    (∀ tag, w.plan = none ∨ w.plan = some plan ∧ plan.recorded.tag = tag →
      w.act l item (.headTag tag) = (({ w with summary := { w.summary with tag := tag } } : Walk).advance, [])) ∧
    (∀ tag, w.plan = some plan → plan.recorded.tag ≠ tag →
      w.act l item (.headTag tag) = ({ w with read := none, result := some (.rejected .changed w.index) }, [])) ∧
    w.act l item (.openScope scope) = (({ w with scope := some scope } : Walk).advance, []) ∧
    w.act l item .nothing = (w.advance, []) ∧ w.act l item .finish = w.finish l ∧
    (∀ k, w.act l item (.takeValues scope k) = (({ w with marks := w.marks.take scope k } : Walk).advance,
      if w.plan.isSome then valueWrites scope k item else [])) ∧
    valueWrites scope .matrix item = each (fun c => .matrix c ((List.range 9).map (fun i => signedField item (4 + 2 * i) 2))) ∧
    valueWrites scope .ramp item =
      each (fun c => .ramp c ((List.range 17).map (fun i => min (field item (4 + 2 * i) 2) 4096))) ∧
    valueWrites scope .uplift item =
      each (fun c => .uplift c ⟨min (field item 4 2) 4095, min (field item 6 2) 4095, min (field item 8 2) 4095⟩) ∧
    (∀ m : MeshItem, let size := if m.formatCode = 1 then 16 else 8
      (w.plan = some plan → meshChanged plan.recorded scope m = true →
        w.act l item (.takeMesh scope m) = ({ w with read := none, result := some (.rejected .changed w.index) }, [])) ∧
      (w.plan = none ∨ w.plan = some plan ∧ meshChanged plan.recorded scope m = false →
        w.act l item (.takeMesh scope m) =
          ({ w with phase := .points m, read := extent m.last m.count size }, [])) ∧
      (w.phase = .points m → w.scope = some scope →
        let points := parsePoints m bytes
        (∀ r, meshContents points m.columns m.rows = some r →
          w.consume l bytes = ({ w with read := none, result := some (.rejected (w.reason r) w.index) }, [])) ∧
        (meshContents points m.columns m.rows = none →
          let taken : Walk :=
            { w with
              marks := w.marks.take scope .mesh
              poolSum := w.poolSum + m.columns * m.rows * ((allOf 6).filter (fun c => scope.getLsbD c.val)).length
              summary := { w.summary with
                meshes := Arr.build (fun c =>
                  if scope.getLsbD c.val then
                    some ⟨16 * 2 ^ m.spacingCode, m.columns, m.rows, if m.formatCode = 1 then .full else .geometry⟩
                  else w.summary.meshes.get c) } }
          (w.plan = none → w.consume l bytes = (taken.advance, [])) ∧
          (w.plan = some plan → w.consume l bytes =
            (taken.advance, each (fun c => .mesh c m.geometry (plan.bases.get c) points)))))) ∧
    (∀ count last, w.plan = none →
      w.act l item (.takeEncode scope count last) = (({ w with marks := w.marks.take scope .encode } : Walk).advance, []) ∧
      w.act l item (.takeDecode count last) =
        (({ w with marks := { w.marks with decode := true }, summary := { w.summary with decodeTaken := true } } : Walk).advance,
          [])) ∧
    (∀ count last, w.plan = some plan →
      w.act l item (.takeEncode scope count last) = ({ w with phase := .encodeTable, read := extent last count 2 }, []) ∧
      w.act l item (.takeDecode count last) = ({ w with phase := .decodeTable, read := extent last count 2 }, [])) ∧
    (w.plan = some plan → w.phase = .encodeTable → w.scope = some scope →
      w.consume l bytes = (({ w with marks := w.marks.take scope .encode } : Walk).advance,
        each (fun c => .encode c ((parseEntries 1025 bytes).map (fun e => min e 1023))))) ∧
    (w.plan = some plan → w.phase = .decodeTable →
      w.consume l bytes =
        (({ w with marks := { w.marks with decode := true }, summary := { w.summary with decodeTaken := true } } : Walk).advance,
          [.decode (parseEntries 1024 bytes)]))

/-- The bank that a load fills. The Loader's writes go to the staging bank in order and leave the active bank. A mesh sets the
mark, the geometry and the pool base of its channel, and its points stand in the pool from the base upward; a matrix, a ramp, an
uplift or an encode table is set for its channel, the decode table for the bank; the writes after END set every mesh-present
mark by what was taken, give a channel without a mesh the geometry of a blank record (log 45), and give every table that was left
out its default; nothing else changes, and the words written, and
they alone, have fresh parity (which values share a word: log 18). Pool bases are given in channel order, each channel that
takes a mesh after the share of the one before. A blank bank has no mesh, the default tables, and blank pool entries. -/
def Obligations.BankWrites : Prop :=
  ∀ (s : State) (writes : List BankWrite) (b : Bank) (c : Fin 6),
    let old := b.channels.get c
    let channelOnly (n : Bank) (t : ChannelTables) : Prop :=
      n.channels.get c = t ∧ (∀ d, d ≠ c → n.channels.get d = b.channels.get d) ∧ n.pool = b.pool ∧ n.decode = b.decode
    let fresh (n : Bank) (written : TableWord → Prop) : Prop := ∀ x, x ∈ n.bad ↔ x ∈ b.bad ∧ ¬ written x
    State.sameBut [.store] s (applyWrites writes s) ∧ (applyWrites writes s).store.active = s.store.active ∧
    (applyWrites writes s).store.select = s.store.select ∧
    (applyWrites writes s).store.staging = writes.foldl Bank.write s.store.staging ∧
    (∀ (g : MeshGeometry) (base : Nat) (points : List MeshPoint), b.pool.length = 65536 → base + points.length ≤ 65536 →
      let n := b.write (.mesh c g base points)
      n.channels.get c =
        { old with meshPresent := true, spacing := g.spacing, columns := g.columns, rows := g.rows, poolBase := base } ∧
      (∀ d, d ≠ c → n.channels.get d = b.channels.get d) ∧ n.decode = b.decode ∧ n.pool.length = 65536 ∧
      (∀ i, i < base ∨ base + points.length ≤ i → n.pointAt i = b.pointAt i) ∧
      (∀ i p, points[i]? = some p → n.pointAt (base + i) = p) ∧
      fresh n (fun x => x = .meshMark c ∨ x = .geometry c ∨
        ∃ i, base ≤ i ∧ i < base + points.length ∧ x = .point i)) ∧
    (∀ v, channelOnly (b.write (.matrix c v)) { old with matrix := v } ∧
      fresh (b.write (.matrix c v)) (fun x => ∃ i, x = .matrix c i)) ∧
    (∀ v, channelOnly (b.write (.ramp c v)) { old with ramp := v } ∧
      fresh (b.write (.ramp c v)) (fun x => ∃ i, x = .ramp c i)) ∧
    (∀ v, channelOnly (b.write (.uplift c v)) { old with uplift := v } ∧
      fresh (b.write (.uplift c v)) (fun x => ∃ i, x = .uplift c i)) ∧
    (∀ v, channelOnly (b.write (.encode c v)) { old with encode := v } ∧
      fresh (b.write (.encode c v)) (fun x => ∃ i, x = .encode c i)) ∧
    (∀ v, (b.write (.decode v)).channels = b.channels ∧ (b.write (.decode v)).pool = b.pool ∧
      (b.write (.decode v)).decode = v ∧ fresh (b.write (.decode v)) (fun x => ∃ i, x = .decode i)) ∧
    (∀ marks : TakenMarks,
      let n := b.write (.finish marks)
      let taken (m : BitVec 6) (d : Fin 6) := m.getLsbD d.val = true
      n.channels.get c =
        { old with
          meshPresent := marks.mesh.getLsbD c.val
          spacing := if taken marks.mesh c then old.spacing else 16
          columns := if taken marks.mesh c then old.columns else 0
          rows := if taken marks.mesh c then old.rows else 0
          poolBase := if taken marks.mesh c then old.poolBase else 0
          matrix := if taken marks.matrix c then old.matrix else [4096, 0, 0, 0, 4096, 0, 0, 0, 4096]
          ramp := if taken marks.ramp c then old.ramp else (List.range 17).map (256 * ·)
          uplift := if taken marks.uplift c then old.uplift else ⟨0, 0, 0⟩
          encode := if taken marks.encode c then old.encode else (List.range 1025).map (min · 1023) } ∧
      n.decode = (if marks.decode then b.decode else (List.range 1024).map (· * 65535 / 1023)) ∧ n.pool = b.pool ∧
      fresh n (fun x => match x with
        | .meshMark _ => True
        | .geometry d => ¬ taken marks.mesh d
        | .matrix d _ => ¬ taken marks.matrix d
        | .ramp d _ => ¬ taken marks.ramp d
        | .uplift d _ => ¬ taken marks.uplift d
        | .encode d _ => ¬ taken marks.encode d
        | .decode _ => marks.decode = false
        | _ => False)) ∧
    (∀ summary : CheckSummary, (planOf summary).recorded = summary ∧ (planOf summary).bases.get 0 = 0 ∧
      ∀ d e : Fin 6, e.val = d.val + 1 →
        (planOf summary).bases.get e = (planOf summary).bases.get d +
          (match summary.meshes.get d with
            | none => 0
            | some g => g.columns * g.rows)) ∧
    (∀ full (p : List Byte),
      parsePoint full p =
        { u := signedField p 0 4, v := signedField p 4 4,
          w := if full then min (field p 8 2) 4096 else 4096, q := if full then min (field p 10 2) 4096 else 0,
          void := full && (field p 12 1).testBit 0 }) ∧
    (blankBank.channels.get c =
      { meshPresent := false, spacing := 16, columns := 0, rows := 0, poolBase := 0,
        matrix := [4096, 0, 0, 0, 4096, 0, 0, 0, 4096], ramp := (List.range 17).map (256 * ·), uplift := ⟨0, 0, 0⟩,
        encode := (List.range 1025).map (min · 1023) } ∧
      blankBank.decode = (List.range 1024).map (· * 65535 / 1023) ∧ blankBank.bad = [] ∧ blankBank.pool.length = 65536 ∧
      ∀ i < 65536, blankBank.pointAt i = ⟨0, 0, 4096, 0, false⟩)

/-! ## Frame memory and faults -/

/-- What a burst does to frame memory. A read returns the bytes as stored, zeros in a word with an uncorrectable error, changes
no byte and no word error, adds the words with a single-bit error to the corrected-error count, and takes one MEMORY fault
whose detail is the lowest failing word. A write stores its bytes and clears the errors of every word it touches; the other
bytes of a word it covers in part are kept, or become 0 where the word had an uncorrectable error; no other word changes. Each
word it covers in part adds 1 to the corrected-error count where it had a single-bit error, and gives one MEMORY fault with its
address where it had an uncorrectable one (one a word: log 23); a word covered whole does neither. -/
def Obligations.MemoryAccess : Prop :=
  ∀ (s : State) (address length : Nat) (cells : List (Nat × Byte)), 0 < length →
    let m := s.memory
    let words := Finset.Icc (address / 8) ((address + length - 1) / 8)
    let t := afterRead address length s
    let n := m.writeBurst cells
    (m.readBytes address length).length = length ∧
    (∀ i < length, (m.readBytes address length)[i]? =
      some (if m.errorAt ((address + i) / 8) = some .uncorrectable then 0 else m.read (address + i))) ∧
    State.sameBut [.memory, .status, .link] s t ∧ t.memory.cells = m.cells ∧ t.memory.errors = m.errors ∧
    t.memory.corrected = m.corrected + BitVec.ofNat 32 (words.filter (fun w => m.errorAt w = some .single)).card ∧
    ((∀ w ∈ words, m.errorAt w ≠ some .uncorrectable) → t.status = s.status ∧ t.link = s.link) ∧
    (∀ w ∈ words, m.errorAt w = some .uncorrectable → (∀ v ∈ words, v < w → m.errorAt v ≠ some .uncorrectable) →
      t.status = { s.status with fault := s.status.fault.take .memory (BitVec.ofNat 32 (8 * w)) s.timing.frame }) ∧
    ((cells.map Prod.fst).Nodup → ∀ c ∈ cells, c.1 < 2147483648 → n.read c.1 = c.2) ∧
    (∀ a, (∀ c ∈ cells, c.1 ≠ a) → (∀ c ∈ cells, c.1 / 8 ≠ a / 8) ∨ m.errorAt (a / 8) ≠ some .uncorrectable →
      n.read a = m.read a) ∧
    (∀ a < 2147483648, (∀ c ∈ cells, c.1 ≠ a) → (∃ c ∈ cells, c.1 / 8 = a / 8) →
      m.errorAt (a / 8) = some .uncorrectable → n.read a = 0) ∧
    (∀ c ∈ cells, n.errorAt (c.1 / 8) = none) ∧
    (∀ w, (∀ c ∈ cells, c.1 / 8 ≠ w) → n.errorAt w = m.errorAt w) ∧
    (let part (w : Nat) := (∃ c ∈ cells, c.1 / 8 = w) ∧ ∃ i < 8, ∀ c ∈ cells, c.1 ≠ 8 * w + i
      let v := afterWrite cells s
      State.sameBut [.memory, .status, .link] s v ∧ v.memory = n ∧
      (∃ corrected : Finset Nat, (∀ w, w ∈ corrected ↔ part w ∧ m.errorAt w = some .single) ∧
        n.corrected = m.corrected + BitVec.ofNat 32 corrected.card) ∧
      ∃ failing : List Nat, failing.Nodup ∧ (∀ w, w ∈ failing ↔ part w ∧ m.errorAt w = some .uncorrectable) ∧
        v = failing.foldl (fun x w => takeFault .memory (BitVec.ofNat 32 (8 * w)) x) (s.setMemory n))

/-- A fault taken and acknowledged. It fills an empty record with the next sequence number (1 after 65,535), and raises FAULT;
in an occupied record one of a strictly higher class takes the place of the held one and raises FAULT, one of an equal or lower
class leaves it; either adds 1 to the further-fault count, up to 65,535. The acknowledgement empties an occupied record where
the value is its sequence number and not 0, and keeps that number. -/
def Obligations.FaultRecordRules : Prop :=
  ∀ (s : State) (kind held : FaultKind) (detail : Word) (ack : Nat),
    let f := s.status.fault
    let t := takeFault kind detail s
    let g := t.status.fault
    let counted := min (f.further + 1) 65535
    State.sameBut [.status, .link] s t ∧ t.status = { s.status with fault := g } ∧
    g.occupied = true ∧
    (g.seenTable = (decide (kind = .table) || f.occupied && f.seenTable)) ∧
    (g.seenMemory = (decide (kind = .memory) || f.occupied && f.seenMemory)) ∧
    (g.seenLink = (decide (kind = .link) || f.occupied && f.seenLink)) ∧
    (f.occupied = false → g.sequence = (if f.sequence = 65535 then 1 else f.sequence + 1) ∧ g.kind = some kind ∧
      g.detail = detail ∧ g.frame = s.timing.frame ∧ g.further = 0 ∧ t.link = (raiseNotice .fault s).link) ∧
    (f.occupied = true → f.kind = some held → kind.code < held.code → g.sequence = f.sequence ∧ g.kind = some kind ∧
      g.detail = detail ∧ g.frame = s.timing.frame ∧ g.further = counted ∧ t.link = (raiseNotice .fault s).link) ∧
    (f.occupied = true → f.kind = some held → held.code ≤ kind.code → g.sequence = f.sequence ∧ g.kind = f.kind ∧
      g.detail = f.detail ∧ g.frame = f.frame ∧ g.further = counted ∧ t.link = s.link) ∧
    (f.occupied = true → ack ≠ 0 → ack = f.sequence.toNat → f.acknowledge ack = { emptyFault with sequence := f.sequence }) ∧
    (f.occupied = false ∨ ack = 0 ∨ ack ≠ f.sequence.toNat → f.acknowledge ack = f)

/-! ## Pixels -/

/-- RENDER_PIXEL on a rendering channel with a pixel left whose canvas data has arrived: the codes of the next pixel are kept
for the port with its clip, the pixel number goes up by 1, a clipped pixel adds 1 to the running clip count, the canvas rows that
no pixel left needs leave the window and the next row may be requested, and a parity failure sets the quarantine mark, raises
CHANNEL and takes a TABLE fault that names the channel and the bank. -/
def Obligations.RenderPixel : Prop :=
  ∀ (s : State) (c : Fin 6),
    let old := s.channels.get c
    let value := nextValue s c
    old.rendering = true → old.nextPixel < s.layout.rasterPixels → dataArrived s c = true →
    ∃ t, exec (.renderPixel c) s = .next t ∧ State.sameBut [.channels, .status, .link] s t ∧
      (∀ d, d ≠ c → t.channels.get d = s.channels.get d) ∧
      t.channels.get c =
        { old with
          ready := old.ready ++ [⟨value.codes, value.clipped⟩], nextPixel := old.nextPixel + 1,
          clipRunning := min (old.clipRunning + if value.clipped then 1 else 0) 4294967295,
          quarantined := old.quarantined || value.parityFailed,
          window := request t c (old.window.filter (fun r => rowNeeded t c r.row)) } ∧
      (∀ r ∈ (t.channels.get c).window, r ∈ old.window ∨ r.got = []) ∧
      (value.parityFailed = false → t.status = s.status ∧ t.link = s.link) ∧
      (value.parityFailed = true → t.noticed .channel = true ∧
        t.status =
          { s.status with
            fault := s.status.fault.take .table
              (BitVec.ofNat 32 (c.val + 256 * (if s.store.select = .a then 0 else 1))) s.timing.frame })

/-- PIXEL_DUE on a port with a pixel of the raster left: the place in the raster goes up by 1. A port that is not UP sends
nothing; an UP port whose channel is not rendering sends code 0; one whose channel has codes ready sends the first of them; one
whose next pixel has its data sends that pixel as computed now, with its clip counted and, at a parity failure, the quarantine
mark, the CHANNEL notice and the TABLE fault; a late pixel is not computed, its line is counted at its first, no mark is set,
and code 0 goes out at the start of a line, else the codes sent last. That a late pixel takes no TABLE fault and no quarantine
also where its mesh mark, its geometry or a corner word fails parity is the model's choice (log 19), and when a pixel is
computed is the sender's (log 20). A pixel computed or late lets the rows that no pixel left needs leave the window, and the
next row may be requested (log 21). -/
def Obligations.PixelDue : Prop :=
  ∀ (s : State) (p : Fin 6), (s.ports.get p).position < s.layout.rasterPixels →
    let port := s.ports.get p
    ∃ t, exec (.pixelDue p) s = .next t ∧ State.sameBut [.channels, .ports, .status, .link] s t ∧
      (∀ q, q ≠ p → t.ports.get q = s.ports.get q) ∧
      (∀ c, s.layout.channelOf p ≠ some c → t.channels.get c = s.channels.get c) ∧
      t.ports.get p = { port with position := port.position + 1, sent := (t.ports.get p).sent } ∧
      (port.state ≠ .up → (t.ports.get p).sent = port.sent ∧ t.channels = s.channels) ∧
      (port.state = .up → (∀ c, s.layout.channelOf p = some c → (s.channels.get c).rendering = false) →
        (t.ports.get p).sent = ⟨0, 0, 0⟩ ∧ t.channels = s.channels) ∧
      (∀ c, port.state = .up → s.layout.channelOf p = some c → (s.channels.get c).rendering = true →
        let old := s.channels.get c
        let ch := t.channels.get c
        (∀ pixel rest, old.ready = pixel :: rest →
          (t.ports.get p).sent = pixel.codes ∧ ch = { old with ready := rest } ∧ t.status = s.status) ∧
        (old.ready = [] → dataArrived s c = true →
          let value := nextValue s c
          (t.ports.get p).sent = value.codes ∧
          ch =
            { old with
              nextPixel := old.nextPixel + 1,
              clipRunning := min (old.clipRunning + if value.clipped then 1 else 0) 4294967295,
              quarantined := old.quarantined || value.parityFailed,
              window := request t c (old.window.filter (fun r => rowNeeded t c r.row)) } ∧
          (value.parityFailed = false → t.status = s.status ∧ t.link = s.link) ∧
          (value.parityFailed = true → t.noticed .channel = true ∧
            t.status =
              { s.status with
                fault := s.status.fault.take .table
                  (BitVec.ofNat 32 (c.val + 256 * (if s.store.select = .a then 0 else 1))) s.timing.frame })) ∧
        (old.ready = [] → dataArrived s c = false →
          (t.ports.get p).sent = (if old.nextPixel % s.layout.wr = 0 then ⟨0, 0, 0⟩ else port.sent) ∧
          ch =
            { old with
              nextPixel := old.nextPixel + 1, clipRunning := min old.clipRunning 4294967295,
              lateLine := some (old.nextPixel / s.layout.wr),
              lateRunning :=
                if old.lateLine = some (old.nextPixel / s.layout.wr) then old.lateRunning
                else min (old.lateRunning + 1) 4294967295,
              window := request t c (old.window.filter (fun r => rowNeeded t c r.row)) } ∧
          t.status = s.status ∧ t.link = s.link))

/-- The path of a pixel: quarantine, MUTE and a channel without a mesh give code 0; GRID gives the flat codes on its dots; a
void pixel gives code 0; an active pixel in PICTURE or FLAT gives what stages 5 to 8 make of its source codes, which are the
flat codes in FLAT and, in PICTURE, the sample at an inside pixel with a slot READING and 0 elsewhere; a pixel for which a word
read fails parity gives code 0 and no clip. Which values share one parity word is log 18, and the parity clauses rest on it. -/
def Obligations.PixelPaths : Prop :=
  ∀ (view : ChannelView) (b : Bank) (c : Fin 6) (wc hc x y : Nat) (canvas : Option (Nat × Nat → Codes)),
    let t := b.channels.get c
    let value := pixelValue view b c wc hc canvas x y
    let black : PixelResult := ⟨⟨0, 0, 0⟩, false, false⟩
    let failed : PixelResult := ⟨⟨0, 0, 0⟩, false, true⟩
    let place := coordinatesAt b c x y
    let drawn := view.quarantined = false ∧ t.meshPresent = true ∧ TableWord.meshMark c ∉ b.bad
    let sound := drawn ∧ TableWord.geometry c ∉ b.bad ∧ ∀ w ∈ cornerWords b c x y, w ∉ b.bad
    let source : Codes :=
      if view.mode = .flat then view.flat
      else match canvas, samplePlace wc hc place with
        | some read, some at' => sampleCanvas read at'
        | _, _ => ⟨0, 0, 0⟩
    (view.quarantined = true ∨ view.mode = .mute → value = black) ∧
    (view.quarantined = false → view.mode ≠ .mute → TableWord.meshMark c ∈ b.bad → value = failed) ∧
    (t.meshPresent = false → TableWord.meshMark c ∉ b.bad → value = black) ∧
    (drawn → view.mode ≠ .mute → TableWord.geometry c ∈ b.bad → value = failed) ∧
    (drawn → TableWord.geometry c ∉ b.bad → view.mode = .grid →
      value = if x % t.spacing < 2 ∧ y % t.spacing < 2 then ⟨view.flat, false, false⟩ else black) ∧
    (drawn → view.mode = .picture ∨ view.mode = .flat → (∃ w ∈ cornerWords b c x y, w ∈ b.bad) → value = failed) ∧
    (sound → view.mode = .picture ∨ view.mode = .flat → (cornersAt b c x y).isVoid = true → value = black) ∧
    (sound → view.mode = .picture ∨ view.mode = .flat → (cornersAt b c x y).isVoid = false →
      ((∃ w ∈ colourWords b c place source, w ∈ b.bad) → value = failed) ∧
      ((∀ w ∈ colourWords b c place source, w ∉ b.bad) →
        value = ⟨codedPixel b t place source, pixelClips b t source, false⟩))

/-- Stage 4 and the blend: the source code is the rounded weighted mean of the four canvas codes, and lies in 0 to 1023 where
they do; the blended value is the rounded product with β, at most 65,535, equal to L' for β = 4096 and 0 for β = 0. -/
def Obligations.SampleAndBlend : Prop :=
  ∀ (au av : Nat) (p : Corners Nat) (beta l : Nat) (canvas : Nat × Nat → Codes) (place : SamplePlace),
    au ≤ 63 → av ≤ 63 → l ≤ 65535 → beta ≤ 4096 →
    let at' := place.positions.map canvas
    sampleCanvas canvas place =
      ⟨sampleMean place.au place.av (at'.map RGB.r), sampleMean place.au place.av (at'.map RGB.g),
        sampleMean place.au place.av (at'.map RGB.b)⟩ ∧
    sampleMean au av p =
      ((64 - au) * (64 - av) * p.c00 + au * (64 - av) * p.c10 + (64 - au) * av * p.c01 + au * av * p.c11 + 2048) / 4096 ∧
    (64 - au) * (64 - av) + au * (64 - av) + (64 - au) * av + au * av = 4096 ∧
    (64 - au) * (64 - av) ≤ 4096 ∧ au * (64 - av) ≤ 4096 ∧ (64 - au) * av ≤ 4096 ∧ au * av ≤ 4096 ∧
    ((∀ q ∈ p.toList, q ≤ 1023) → sampleMean au av p ≤ 1023) ∧
    blend beta l = (l * beta + 2048) / 4096 ∧ blend beta l ≤ 65535 ∧ blend 4096 l = l ∧ blend 0 l = 0

/-- The other stages: the bilinear mean of stage 2 with its floor division, within the corners' range; the zones of stage 3; the
matrix sum with its floor division, its clamp and the clip; the ramp and encode segments, which lie between their ends; the
uplift. -/
def Obligations.PixelStages : Prop :=
  (∀ (cell : Cell) (p : Corners Int) (low high : Int), 0 < cell.spacing → cell.spacing % 2 = 0 → cell.fx < cell.spacing →
    cell.fy < cell.spacing →
    let s : Int := cell.spacing
    let sum := (s - cell.fx) * (s - cell.fy) * p.c00 + cell.fx * (s - cell.fy) * p.c10 + (s - cell.fx) * cell.fy * p.c01 +
      cell.fx * cell.fy * p.c11
    s * s * bilinear cell p ≤ sum + s * s / 2 ∧ sum + s * s / 2 < s * s * (bilinear cell p + 1) ∧
    ((∀ a ∈ p.toList, low ≤ a ∧ a ≤ high) → low ≤ bilinear cell p ∧ bilinear cell p ≤ high)) ∧
  (∀ (u : Int) (n : Nat), 0 < n →
    (u ≤ -64 ∨ (n : Int) * 64 ≤ u → canvasTest u n = none) ∧
    (-64 < u → u < 0 → canvasTest u n = some 0) ∧
    (0 ≤ u → u ≤ ((n : Int) - 1) * 64 → canvasTest u n = some u.toNat) ∧
    (((n : Int) - 1) * 64 < u → u < (n : Int) * 64 → canvasTest u n = some ((n - 1) * 64))) ∧
  (∀ (m : List Int) (row : Nat) (l : RGB Nat),
    let sum := m.getD (3 * row) 0 * l.r + m.getD (3 * row + 1) 0 * l.g + m.getD (3 * row + 2) 0 * l.b
    4096 * matrixRow m row l ≤ sum + 2048 ∧ sum + 2048 < 4096 * (matrixRow m row l + 1)) ∧
  (∀ a : Int, (a < 0 → clampLinear a = 0) ∧ (0 ≤ a → a ≤ 65535 → (clampLinear a : Int) = a) ∧
    (65535 < a → clampLinear a = 65535)) ∧
  (∀ sums : RGB Int, clippedBy sums = true ↔ ∃ a ∈ sums.toList, ((clampLinear a : Nat) : Int) ≠ a) ∧
  (∀ a b f d : Nat, 0 < d → d % 2 = 0 → f < d →
    (Machine.segment a b f d : Int) = a + (((b : Int) - a) * f + (d / 2 : Nat)) / d ∧ min a b ≤ Machine.segment a b f d ∧
    Machine.segment a b f d ≤ max a b) ∧
  (∀ (ramp : List Nat) (w : Nat), (w < 4096 →
    rampValue ramp w = Machine.segment (ramp.getD (w / 256) 0) (ramp.getD (w / 256 + 1) 0) (w % 256) 256) ∧
    rampValue ramp 4096 = ramp.getD 16 0) ∧
  (∀ u q l : Nat, lift u q l = min 65535 (l + (u * q + 2048) / 4096)) ∧
  (∀ (e : List Nat) (lo : Nat),
    encodeValue e lo = Machine.segment (e.getD (lo / 64) 0) (e.getD (lo / 64 + 1) 0) (lo % 64) 64)

/-! ## What every step keeps -/

/-- Every step keeps the hard-wired register bits at 0 and frame memory in its canonical form. -/
def Obligations.RegistersAndMemoryKept : Prop :=
  ∀ s t : State, s.RegistersOk → s.MemoryOk → step s = .next t → t.RegistersOk ∧ t.MemoryOk

/-- At any time at most one bay is LIVE, at most one CHECKING and at most one LOADING or STAGED: every step keeps these bounds,
with the live bay number, the Checker and the Loader naming those bays, and keeps both banks blank while the device is IDLE or
STARTING. -/
def Obligations.BaysAndBanksKept : Prop :=
  ∀ s t : State, s.BaysOk → s.BanksOk → step s = .next t → t.BaysOk ∧ t.BanksOk ∧
    (∀ a b, t.bayState a = .live → t.bayState b = .live → a = b) ∧
    (∀ a b, t.bayState a = .checking → t.bayState b = .checking → a = b) ∧
    (∀ a b, t.bayState a = .loading ∨ t.bayState a = .staged → t.bayState b = .loading ∨ t.bayState b = .staged → a = b)

/-- Every step keeps the slots (one FILLING just while a fill is in progress, one COMPLETE, one READING), the room of the line
FIFO, and the ranges of the stop count, the fault record, the share counter, the ports' counts and the read-ahead windows. -/
def Obligations.SlotsAndCountsKept : Prop :=
  ∀ s t : State,
    let counts (u : State) : Prop :=
      u.capture.FifoOk ∧ u.status.fault.Ok ∧ u.device.StopOk ∧ u.arbiter.ShareOk ∧ (∀ p, (u.ports.get p).CountsOk) ∧
        ∀ c, (u.channels.get c).WindowOk
    s.capture.SlotsOk → counts s → step s = .next t → t.capture.SlotsOk ∧ counts t

/-- Every step keeps output frame starts at least floor(P/2) ticks apart: in a running generator a start that a step issues comes
at least that long after the one before it, whether placed, scheduled, or issued at once at the end of the lock; and the next one
placed or scheduled lies at least that far ahead of the latest. With it every step keeps the generator STOPPED just while the
device is IDLE or STARTING. -/
def Obligations.SpacingKept : Prop :=
  ∀ s t : State, s.ClockOk → s.timing.SpacedOk → step s = .next t → t.ClockOk ∧ t.timing.SpacedOk ∧
    ∀ a b, s.timing.state ≠ .stopped → s.timing.latestStart = some a → t.timing.latestStart = some b →
      t.timing.frame ≠ s.timing.frame → a + s.timing.period / 2 ≤ b

/-- Every step keeps the trigger lines settled: the combined level is the one of the present levels, and an edge that is not
delivered waits for a hold-off. -/
def Obligations.TriggersKept : Prop :=
  ∀ s t : State, s.TriggersOk → step s = .next t → t.TriggersOk

/-- Every step keeps a rendering channel's port UP and every code held for sending, or sent last, in 0 to 1023. -/
def Obligations.RenderingAndCodesKept : Prop :=
  ∀ s t : State, s.RenderingOk → s.CodesOk → step s = .next t → t.RenderingOk ∧ t.CodesOk
end

