-- ==== Sys2Proof/Laws/Basic.lean ====
section
/-! SUPPORT. Rows of like things: reading after writing, the indices of a row, the lowest index, folds. -/

namespace Sys2Proof

namespace Arr

variable {n : Nat} {α β : Type}

/-- The `i`-th thing is the `i`-th element of the list. -/
theorem get_eq_getElem (v : Arr n α) (i : Fin n) : v.get i = v.toList[i.val]'(by rw [v.size_eq]; exact i.isLt) := rfl

@[simp] theorem get_set_self (v : Arr n α) (i : Fin n) (a : α) : (v.set i a).get i = a := by
  simp [get_eq_getElem, set]

theorem get_set_ne (v : Arr n α) (i j : Fin n) (a : α) (h : j ≠ i) : (v.set i a).get j = v.get j := by
  have : i.val ≠ j.val := fun e => h (Fin.ext e.symm)
  simp [get_eq_getElem, set, this]

/-- Reading after writing, by cases. -/
theorem get_set (v : Arr n α) (i j : Fin n) (a : α) : (v.set i a).get j = if j = i then a else v.get j := by
  by_cases h : j = i
  · subst h; simp
  · simp [h, get_set_ne v i j a h]

@[simp] theorem get_modify_self (v : Arr n α) (i : Fin n) (f : α → α) : (v.modify i f).get i = f (v.get i) := by
  simp [modify]

theorem get_modify_ne (v : Arr n α) (i j : Fin n) (f : α → α) (h : j ≠ i) : (v.modify i f).get j = v.get j := by
  simp [modify, get_set_ne _ _ _ _ h]

/-- Reading after changing one, by cases. -/
theorem get_modify (v : Arr n α) (i j : Fin n) (f : α → α) :
    (v.modify i f).get j = if j = i then f (v.get j) else v.get j := by
  by_cases h : j = i
  · subst h; simp
  · simp [h, get_modify_ne v i j f h]

@[simp] theorem get_build (f : Fin n → α) (i : Fin n) : (build f).get i = f i := by
  simp [get_eq_getElem, build]

@[simp] theorem get_map (f : α → β) (v : Arr n α) (i : Fin n) : (v.map f).get i = f (v.get i) := by
  simp [get_eq_getElem, map]

@[simp] theorem get_replicate (a : α) (i : Fin n) : (replicate n a).get i = a := by
  simp [get_eq_getElem, replicate]

/-- Two rows with the same things are the same row. -/
theorem ext_get {v w : Arr n α} (h : ∀ i, v.get i = w.get i) : v = w := by
  have hl : v.toList = w.toList := by
    apply List.ext_getElem (by rw [v.size_eq, w.size_eq])
    intro i h1 h2
    have hi : i < n := by rw [← v.size_eq]; exact h1
    simpa [get_eq_getElem] using h ⟨i, hi⟩
  cases v; cases w; cases hl; rfl

/-- A thing of the list is some `i`-th thing. -/
theorem mem_toList {v : Arr n α} {a : α} : a ∈ v.toList ↔ ∃ i, v.get i = a := by
  constructor
  · intro h
    obtain ⟨i, hi, he⟩ := List.getElem_of_mem h
    exact ⟨⟨i, by rw [← v.size_eq]; exact hi⟩, by simpa [get_eq_getElem] using he⟩
  · rintro ⟨i, rfl⟩
    rw [get_eq_getElem]; exact List.getElem_mem _

end Arr

@[simp] theorem mem_allOf {n : Nat} (i : Fin n) : i ∈ allOf n := by
  simp [allOf, List.mem_ofFn]

/-- The indices of a row stand each once. -/
theorem nodup_allOf (n : Nat) : (allOf n).Nodup := by
  simpa [allOf, List.nodup_ofFn] using Function.injective_id

theorem lowest_eq_none {n : Nat} {p : Fin n → Bool} : lowest n p = none ↔ ∀ i, p i = false := by
  simp [lowest, List.find?_eq_none]

theorem lowest_isSome {n : Nat} {p : Fin n → Bool} : (lowest n p).isSome ↔ ∃ i, p i = true := by
  simp [lowest, List.find?_isSome]

/-- The lowest index that satisfies `p` satisfies it. -/
theorem lowest_some {n : Nat} {p : Fin n → Bool} {i : Fin n} (h : lowest n p = some i) : p i = true :=
  List.find?_some h

/-- Where one index alone satisfies `p`, it is the lowest. -/
theorem lowest_unique {n : Nat} {p : Fin n → Bool} {i : Fin n} (hi : p i = true) (h : ∀ j, p j = true → j = i) :
    lowest n p = some i := by
  cases e : lowest n p with
  | none => exact absurd hi (by simp [lowest_eq_none.mp e i])
  | some j => rw [h j (lowest_some e)]

/-- No index below the lowest satisfies `p`. -/
theorem lowest_least {n : Nat} {p : Fin n → Bool} {i j : Fin n} (h : lowest n p = some i) (hj : j < i) :
    p j = false := by
  unfold lowest at h
  obtain ⟨_, as, bs, hs, ha⟩ := List.find?_eq_some_iff_append.mp h
  have hlen : as.length = i.val := by
    have h1 : (allOf n)[as.length]? = some i := by rw [hs]; simp
    simp only [allOf, List.getElem?_ofFn] at h1
    split at h1
    · simpa using congrArg (Option.map Fin.val) h1
    · simp at h1
  have hmem : j ∈ as := by
    have h2 : (allOf n)[j.val]? = some j := by simp [allOf]
    rw [hs, List.getElem?_append_left (by omega)] at h2
    exact List.mem_of_getElem? h2
  simpa using ha j hmem

namespace Machine

/-- What every step of a fold leaves unchanged, the fold leaves unchanged. -/
theorem foldl_keeps {α β σ : Type} (g : σ → β) (f : σ → α → σ) (h : ∀ s a, g (f s a) = g s) (l : List α) (s : σ) :
    g (l.foldl f s) = g s := by
  induction l generalizing s with
  | nil => rfl
  | cons a l ih => simp [List.foldl_cons, ih, h]

/-- What every step of a fold preserves, the fold preserves. -/
theorem foldl_preserves {α σ : Type} (P : σ → Prop) (f : σ → α → σ) (h : ∀ s a, P s → P (f s a)) (l : List α) (s : σ)
    (hs : P s) : P (l.foldl f s) := by
  induction l generalizing s with
  | nil => exact hs
  | cons a l ih => exact ih (f s a) (h s a hs)

/-- A fold over all indices whose step keeps `P` and, where `P` holds, changes the `b`-th value alone changes each value
once. -/
theorem foldl_allOf_get_of {n : Nat} {α σ : Type} (P : σ → Prop) (g : Fin n → σ → α) (f : σ → Fin n → σ)
    (h : Fin n → α → α) (keep : ∀ s b, P s → P (f s b))
    (step : ∀ s b a, P s → g a (f s b) = if a = b then h a (g a s) else g a s) (s : σ) (hs : P s) (a : Fin n) :
    g a ((allOf n).foldl f s) = h a (g a s) := by
  have key : ∀ (l : List (Fin n)) (s : σ), P s → l.Nodup →
      g a (l.foldl f s) = if a ∈ l then h a (g a s) else g a s := by
    intro l
    induction l with
    | nil => intro s _ _; rfl
    | cons b l ih =>
      intro s hp hn
      obtain ⟨hb, hl⟩ := List.nodup_cons.mp hn
      rw [List.foldl_cons, ih _ (keep s b hp) hl, step s b a hp]
      by_cases e : a = b
      · subst e; simp [hb]
      · simp [e]
  rw [key _ _ hs (nodup_allOf n), if_pos (mem_allOf a)]

/-- A fold over all indices whose step changes the `b`-th value alone changes each value once. -/
theorem foldl_allOf_get {n : Nat} {α σ : Type} (g : Fin n → σ → α) (f : σ → Fin n → σ) (h : Fin n → α → α)
    (step : ∀ s b a, g a (f s b) = if a = b then h a (g a s) else g a s) (s : σ) (a : Fin n) :
    g a ((allOf n).foldl f s) = h a (g a s) :=
  foldl_allOf_get_of (fun _ => True) g f h (fun _ _ _ => trivial) (fun s b a _ => step s b a) s trivial a

end Machine

end Sys2Proof
end

