-- ==== Sys2Proof/Laws/Memory.lean ====
section
/-! SUPPORT. Frame memory: every operation keeps the canonical form, and what a byte reads after a write. -/

namespace Sys2Proof.Machine

/-! ## Lists of keys -/

/-- Rising keys as a pairwise order. -/
theorem keysRise_iff {α : Type} (l : List (Nat × α)) :
    keysRise l = true ↔ l.Pairwise (fun p q => p.1 < q.1) := by
  induction l with
  | nil => simp [keysRise]
  | cons p l ih =>
    cases l with
    | nil => simp [keysRise]
    | cons q l =>
      simp only [keysRise, Bool.and_eq_true, decide_eq_true_eq, ih, List.pairwise_cons]
      constructor
      · rintro ⟨h, hq, hl⟩
        refine ⟨?_, hq, hl⟩
        intro x hx
        rcases List.mem_cons.mp hx with rfl | hx
        · exact h
        · exact h.trans (hq x hx)
      · rintro ⟨h, hq, hl⟩
        exact ⟨h q (List.mem_cons_self ..), hq, hl⟩

theorem mem_insertKey {α : Type} {a : Nat} {x : α} {l : List (Nat × α)} {p : Nat × α}
    (h : p ∈ insertKey a x l) : p = (a, x) ∨ p ∈ l := by
  induction l with
  | nil => simpa [insertKey] using h
  | cons q l ih =>
    simp only [insertKey] at h
    split at h
    · simpa using h
    · split at h
      · rcases List.mem_cons.mp h with h | h
        · exact .inl h
        · exact .inr (List.mem_cons_of_mem _ h)
      · rcases List.mem_cons.mp h with h | h
        · exact .inr (h ▸ List.mem_cons_self ..)
        · rcases ih h with h | h
          · exact .inl h
          · exact .inr (List.mem_cons_of_mem _ h)

/-- Setting a key keeps the keys rising. -/
theorem keysRise_insertKey {α : Type} (a : Nat) (x : α) (l : List (Nat × α)) (h : keysRise l = true) :
    keysRise (insertKey a x l) = true := by
  rw [keysRise_iff] at h ⊢
  induction l with
  | nil => simp [insertKey]
  | cons q l ih =>
    obtain ⟨hq, hl⟩ := List.pairwise_cons.mp h
    simp only [insertKey]
    split
    · rename_i hlt
      refine List.pairwise_cons.mpr ⟨?_, h⟩
      intro p hp
      rcases List.mem_cons.mp hp with rfl | hp
      · exact hlt
      · exact hlt.trans (hq p hp)
    · split
      · rename_i hlt he
        refine List.pairwise_cons.mpr ⟨?_, hl⟩
        intro p hp
        rw [he]; exact hq p hp
      · rename_i hlt hne
        refine List.pairwise_cons.mpr ⟨?_, ih hl⟩
        intro p hp
        rcases mem_insertKey hp with rfl | hp
        · show q.1 < a; omega
        · exact hq p hp

/-- Erasing a key keeps the keys rising. -/
theorem keysRise_eraseKey {α : Type} (a : Nat) (l : List (Nat × α)) (h : keysRise l = true) :
    keysRise (eraseKey a l) = true := by
  rw [keysRise_iff] at h ⊢
  exact h.filter _

/-- What is listed for a key after another, or the same, is set. -/
theorem lookup_insertKey {α : Type} (a b : Nat) (x : α) (l : List (Nat × α)) :
    lookup (insertKey a x l) b = if a = b then some x else lookup l b := by
  induction l with
  | nil => simp [insertKey, lookup]
  | cons q l ih =>
    simp only [insertKey]
    split
    · simp [lookup]
    · split
      · rename_i h1 h2
        subst h2
        by_cases h : q.1 = b <;> simp [lookup, h]
      · rename_i h1 h2
        simp only [lookup, ih]
        by_cases h : q.1 = b
        · have : a ≠ b := fun e => h2 (e.trans h.symm)
          simp [h, this]
        · simp [h]

/-- What is listed for a key after one is erased. -/
theorem lookup_eraseKey {α : Type} (a b : Nat) (l : List (Nat × α)) :
    lookup (eraseKey a l) b = if a = b then none else lookup l b := by
  induction l with
  | nil => simp [eraseKey, lookup]
  | cons q l ih =>
    simp only [eraseKey, List.filter_cons] at ih ⊢
    by_cases h : q.1 = a
    · simp only [h, ne_eq, not_true_eq_false, decide_false, Bool.false_eq_true, if_false, ih, lookup]
      by_cases hb : a = b <;> simp [hb]
    · simp only [h, ne_eq, not_false_eq_true, decide_true, if_true, lookup, ih]
      by_cases hb : q.1 = b
      · have : a ≠ b := fun e => h (hb.trans e.symm)
        simp [hb, this]
      · simp [hb]

namespace Memory

@[simp] theorem countCorrected_cells (m : Memory) (n : Nat) : (m.countCorrected n).cells = m.cells := rfl

@[simp] theorem countCorrected_errors (m : Memory) (n : Nat) : (m.countCorrected n).errors = m.errors := rfl

@[simp] theorem countCorrected_zero (m : Memory) : m.countCorrected 0 = m := by simp [countCorrected]

@[simp] theorem clearError_cells (m : Memory) (w : Nat) : (m.clearError w).cells = m.cells := rfl

@[simp] theorem write_errors (m : Memory) (a : Nat) (b : Byte) : (m.write a b).errors = m.errors := by
  unfold write; split <;> rfl

@[simp] theorem writeAll_errors (m : Memory) (l : List (Nat × Byte)) : (m.writeAll l).errors = m.errors :=
  foldl_keeps (fun m : Memory => m.errors) (fun (m : Memory) (c : Nat × Byte) => m.write c.1 c.2)
    (fun m c => write_errors m c.1 c.2) l m

/-! ## The canonical form -/

/-- The canonical form, part by part. -/
theorem wf_iff (m : Memory) : m.wf = true ↔
    (keysRise m.cells = true ∧ ∀ c ∈ m.cells, c.1 < Config.frameMemoryBytes ∧ c.2 ≠ unlistedByte) ∧
      keysRise m.errors = true ∧ ∀ e ∈ m.errors, e.1 < Config.frameMemoryBytes / 8 := by
  simp only [wf, Bool.and_eq_true, List.all_eq_true, decide_eq_true_eq]
  tauto

theorem countCorrected_wf (m : Memory) (n : Nat) : (m.countCorrected n).wf = m.wf := rfl

theorem write_wf (m : Memory) (a : Nat) (b : Byte) (h : m.wf = true) : (m.write a b).wf = true := by
  rw [wf_iff] at h ⊢
  obtain ⟨⟨h1, h2⟩, h3, h4⟩ := h
  unfold write
  split
  · rename_i ha
    refine ⟨?_, h3, h4⟩
    dsimp only
    split
    · refine ⟨keysRise_eraseKey _ _ h1, fun c hc => h2 c (List.mem_of_mem_filter hc)⟩
    · rename_i hb
      refine ⟨keysRise_insertKey _ _ _ h1, fun c hc => ?_⟩
      rcases mem_insertKey hc with rfl | hc
      · exact ⟨ha, hb⟩
      · exact h2 c hc
  · exact ⟨⟨h1, h2⟩, h3, h4⟩

theorem writeAll_wf (m : Memory) (l : List (Nat × Byte)) (h : m.wf = true) : (m.writeAll l).wf = true :=
  foldl_preserves (fun m : Memory => m.wf = true) _ (fun m c hm => write_wf m c.1 c.2 hm) l m h

theorem clearError_wf (m : Memory) (w : Nat) (h : m.wf = true) : (m.clearError w).wf = true := by
  rw [wf_iff] at h ⊢
  obtain ⟨h12, h3, h4⟩ := h
  exact ⟨h12, keysRise_eraseKey _ _ h3, fun e he => h4 e (List.mem_of_mem_filter he)⟩

theorem merge_wf (m : Memory) (w : Nat) (h : m.wf = true) : (m.merge w).wf = true := by
  unfold merge
  split
  · exact h
  · rw [countCorrected_wf]; exact h
  · exact writeAll_wf _ _ h

theorem prepare_wf (m : Memory) (l : List (Nat × Byte)) (h : m.wf = true) : (m.prepare l).wf = true := by
  refine foldl_preserves (fun m : Memory => m.wf = true) _ (fun m w hm => ?_) _ m h
  split
  · exact clearError_wf _ _ hm
  · exact clearError_wf _ _ (merge_wf _ _ hm)

theorem writeBurst_wf (m : Memory) (l : List (Nat × Byte)) (h : m.wf = true) : (m.writeBurst l).wf = true :=
  writeAll_wf _ _ (prepare_wf _ _ h)

theorem resetMemory_wf : resetMemory.wf = true := rfl

theorem ofFound_wf (found : FoundMemory) : (ofFound found).wf = true := by
  have h1 := (wf_iff _).mp (writeAll_wf resetMemory found.cells rfl)
  rw [wf_iff]
  refine ⟨h1.1, ?_⟩
  unfold ofFound
  dsimp only
  refine foldl_preserves
    (fun l : List (Nat × EccError) => keysRise l = true ∧ ∀ e ∈ l, e.1 < Config.frameMemoryBytes / 8) _ ?_ _ _ ?_
  · rintro l e ⟨hr, hb⟩
    split
    · rename_i he
      refine ⟨keysRise_insertKey _ _ _ hr, fun x hx => ?_⟩
      rcases mem_insertKey hx with rfl | hx
      · exact he
      · exact hb x hx
    · exact ⟨hr, hb⟩
  · simp [keysRise]

/-! ## Reading after writing -/

/-- A byte after one byte is stored. -/
theorem read_write (m : Memory) (a b : Nat) (x : Byte) (h : a < Config.frameMemoryBytes) :
    (m.write a x).read b = if a = b then x else m.read b := by
  unfold write read
  rw [if_pos h]
  dsimp only
  split
  · rename_i hx
    rw [lookup_eraseKey]
    by_cases hab : a = b <;> simp [hab, hx]
  · rw [lookup_insertKey]
    by_cases hab : a = b <;> simp [hab]

/-- A byte other than the one stored reads as before. -/
theorem read_write_ne (m : Memory) (a b : Nat) (x : Byte) (h : a ≠ b) : (m.write a x).read b = m.read b := by
  by_cases ha : a < Config.frameMemoryBytes
  · rw [read_write m a b x ha, if_neg h]
  · simp [write, ha]

/-- A byte that none of the stored ones is reads as before. -/
theorem read_writeAll_of_notMem (m : Memory) (l : List (Nat × Byte)) (b : Nat) (h : ∀ c ∈ l, c.1 ≠ b) :
    (m.writeAll l).read b = m.read b := by
  induction l generalizing m with
  | nil => rfl
  | cons c l ih =>
    have := ih (m.write c.1 c.2) (fun d hd => h d (List.mem_cons_of_mem _ hd))
    simp only [writeAll, List.foldl_cons] at this ⊢
    rw [this, read_write_ne _ _ _ _ (h c (List.mem_cons_self ..))]

@[simp] theorem countCorrected_read (m : Memory) (n a : Nat) : (m.countCorrected n).read a = m.read a := rfl

@[simp] theorem clearError_read (m : Memory) (w a : Nat) : (m.clearError w).read a = m.read a := rfl

/-- The error of a word after another, or the same, gets fresh check bits. -/
theorem errorAt_clearError (m : Memory) (v w : Nat) :
    (m.clearError v).errorAt w = if v = w then none else m.errorAt w := lookup_eraseKey v w m.errors

/-- A merge changes no byte of another word. -/
theorem read_merge_of_ne (m : Memory) (w a : Nat) (h : a / 8 ≠ w) : (m.merge w).read a = m.read a := by
  unfold merge
  split
  · rfl
  · rfl
  · refine read_writeAll_of_notMem _ _ _ fun c hc => ?_
    obtain ⟨i, hi, rfl⟩ := List.mem_map.mp hc
    have := List.mem_range.mp hi
    dsimp only; omega

/-- A merge of a word without an uncorrectable error changes no byte. -/
theorem read_merge_of_sound (m : Memory) (w a : Nat) (h : m.errorAt w ≠ some .uncorrectable) :
    (m.merge w).read a = m.read a := by
  unfold merge
  split
  · rfl
  · rfl
  · rename_i he; exact absurd he h

@[simp] theorem merge_errors (m : Memory) (w : Nat) : (m.merge w).errors = m.errors := by
  unfold merge; split <;> simp

/-- A byte of a word that no write touches reads as before a burst. -/
theorem read_writeBurst_of_word (m : Memory) (l : List (Nat × Byte)) (a : Nat) (h : ∀ c ∈ l, c.1 / 8 ≠ a / 8) :
    (m.writeBurst l).read a = m.read a := by
  unfold writeBurst
  rw [read_writeAll_of_notMem _ _ _ (fun c hc e => h c hc (by rw [e]))]
  have hw : ∀ w ∈ touched l, w ≠ a / 8 := by
    intro w hw
    simp only [touched, List.mem_dedup, List.mem_map] at hw
    obtain ⟨c, hc, rfl⟩ := hw
    exact h c hc
  unfold prepare
  generalize touched l = ws at hw
  induction ws generalizing m with
  | nil => rfl
  | cons w ws ih =>
    rw [List.foldl_cons, ih _ (fun v hv => hw v (List.mem_cons_of_mem _ hv))]
    have hne := hw w (List.mem_cons_self ..)
    split
    · simp
    · rw [clearError_read, read_merge_of_ne _ _ _ (fun e => hne e.symm)]

/-- With no uncorrectable error in the words touched, a byte that is not stored reads as before a burst. -/
theorem read_writeBurst_of_sound (m : Memory) (l : List (Nat × Byte)) (a : Nat) (h : ∀ c ∈ l, c.1 ≠ a)
    (hs : ∀ w, m.errorAt w ≠ some .uncorrectable) : (m.writeBurst l).read a = m.read a := by
  unfold writeBurst
  rw [read_writeAll_of_notMem _ _ _ h]
  unfold prepare
  generalize touched l = ws
  induction ws generalizing m with
  | nil => rfl
  | cons w ws ih =>
    have hs' : ∀ v (n : Memory), n.errors = m.errors → (n.clearError w).errorAt v ≠ some .uncorrectable := by
      intro v n hn
      rw [errorAt_clearError]
      split
      · simp
      · have := hs v
        simp only [errorAt, hn] at this ⊢
        exact this
    rw [List.foldl_cons]
    split
    · rw [ih _ (fun v => hs' v m rfl), clearError_read]
    · rw [ih _ (fun v => hs' v _ (merge_errors m w)), clearError_read, read_merge_of_sound _ _ _ (hs w)]

end Memory

end Sys2Proof.Machine
end

