-- ==== Sys2Proof/Laws/State.lean ====
section
/-! SUPPORT. One lemma per field per update of State; each holds by rfl. -/

namespace Sys2Proof.Machine.State

/-! ### setPending -/

@[simp] theorem setPending_pending (s : State) (v : List Instr) : (s.setPending v).pending = v := rfl
@[simp] theorem setPending_device (s : State) (v : List Instr) : (s.setPending v).device = s.device := rfl
@[simp] theorem setPending_layout (s : State) (v : List Instr) : (s.setPending v).layout = s.layout := rfl
@[simp] theorem setPending_link (s : State) (v : List Instr) : (s.setPending v).link = s.link := rfl
@[simp] theorem setPending_timing (s : State) (v : List Instr) : (s.setPending v).timing = s.timing := rfl
@[simp] theorem setPending_source (s : State) (v : List Instr) : (s.setPending v).source = s.source := rfl
@[simp] theorem setPending_capture (s : State) (v : List Instr) : (s.setPending v).capture = s.capture := rfl
@[simp] theorem setPending_bays (s : State) (v : List Instr) : (s.setPending v).bays = s.bays := rfl
@[simp] theorem setPending_reader (s : State) (v : List Instr) : (s.setPending v).reader = s.reader := rfl
@[simp] theorem setPending_store (s : State) (v : List Instr) : (s.setPending v).store = s.store := rfl
@[simp] theorem setPending_channels (s : State) (v : List Instr) : (s.setPending v).channels = s.channels := rfl
@[simp] theorem setPending_ports (s : State) (v : List Instr) : (s.setPending v).ports = s.ports := rfl
@[simp] theorem setPending_triggers (s : State) (v : List Instr) : (s.setPending v).triggers = s.triggers := rfl
@[simp] theorem setPending_arbiter (s : State) (v : List Instr) : (s.setPending v).arbiter = s.arbiter := rfl
@[simp] theorem setPending_memory (s : State) (v : List Instr) : (s.setPending v).memory = s.memory := rfl
@[simp] theorem setPending_status (s : State) (v : List Instr) : (s.setPending v).status = s.status := rfl

/-! ### setDevice -/

@[simp] theorem setDevice_pending (s : State) (v : Device) : (s.setDevice v).pending = s.pending := rfl
@[simp] theorem setDevice_device (s : State) (v : Device) : (s.setDevice v).device = v := rfl
@[simp] theorem setDevice_layout (s : State) (v : Device) : (s.setDevice v).layout = s.layout := rfl
@[simp] theorem setDevice_link (s : State) (v : Device) : (s.setDevice v).link = s.link := rfl
@[simp] theorem setDevice_timing (s : State) (v : Device) : (s.setDevice v).timing = s.timing := rfl
@[simp] theorem setDevice_source (s : State) (v : Device) : (s.setDevice v).source = s.source := rfl
@[simp] theorem setDevice_capture (s : State) (v : Device) : (s.setDevice v).capture = s.capture := rfl
@[simp] theorem setDevice_bays (s : State) (v : Device) : (s.setDevice v).bays = s.bays := rfl
@[simp] theorem setDevice_reader (s : State) (v : Device) : (s.setDevice v).reader = s.reader := rfl
@[simp] theorem setDevice_store (s : State) (v : Device) : (s.setDevice v).store = s.store := rfl
@[simp] theorem setDevice_channels (s : State) (v : Device) : (s.setDevice v).channels = s.channels := rfl
@[simp] theorem setDevice_ports (s : State) (v : Device) : (s.setDevice v).ports = s.ports := rfl
@[simp] theorem setDevice_triggers (s : State) (v : Device) : (s.setDevice v).triggers = s.triggers := rfl
@[simp] theorem setDevice_arbiter (s : State) (v : Device) : (s.setDevice v).arbiter = s.arbiter := rfl
@[simp] theorem setDevice_memory (s : State) (v : Device) : (s.setDevice v).memory = s.memory := rfl
@[simp] theorem setDevice_status (s : State) (v : Device) : (s.setDevice v).status = s.status := rfl

/-! ### setLayout -/

@[simp] theorem setLayout_pending (s : State) (v : Layout) : (s.setLayout v).pending = s.pending := rfl
@[simp] theorem setLayout_device (s : State) (v : Layout) : (s.setLayout v).device = s.device := rfl
@[simp] theorem setLayout_layout (s : State) (v : Layout) : (s.setLayout v).layout = v := rfl
@[simp] theorem setLayout_link (s : State) (v : Layout) : (s.setLayout v).link = s.link := rfl
@[simp] theorem setLayout_timing (s : State) (v : Layout) : (s.setLayout v).timing = s.timing := rfl
@[simp] theorem setLayout_source (s : State) (v : Layout) : (s.setLayout v).source = s.source := rfl
@[simp] theorem setLayout_capture (s : State) (v : Layout) : (s.setLayout v).capture = s.capture := rfl
@[simp] theorem setLayout_bays (s : State) (v : Layout) : (s.setLayout v).bays = s.bays := rfl
@[simp] theorem setLayout_reader (s : State) (v : Layout) : (s.setLayout v).reader = s.reader := rfl
@[simp] theorem setLayout_store (s : State) (v : Layout) : (s.setLayout v).store = s.store := rfl
@[simp] theorem setLayout_channels (s : State) (v : Layout) : (s.setLayout v).channels = s.channels := rfl
@[simp] theorem setLayout_ports (s : State) (v : Layout) : (s.setLayout v).ports = s.ports := rfl
@[simp] theorem setLayout_triggers (s : State) (v : Layout) : (s.setLayout v).triggers = s.triggers := rfl
@[simp] theorem setLayout_arbiter (s : State) (v : Layout) : (s.setLayout v).arbiter = s.arbiter := rfl
@[simp] theorem setLayout_memory (s : State) (v : Layout) : (s.setLayout v).memory = s.memory := rfl
@[simp] theorem setLayout_status (s : State) (v : Layout) : (s.setLayout v).status = s.status := rfl

/-! ### setLink -/

@[simp] theorem setLink_pending (s : State) (v : LinkEndpoint) : (s.setLink v).pending = s.pending := rfl
@[simp] theorem setLink_device (s : State) (v : LinkEndpoint) : (s.setLink v).device = s.device := rfl
@[simp] theorem setLink_layout (s : State) (v : LinkEndpoint) : (s.setLink v).layout = s.layout := rfl
@[simp] theorem setLink_link (s : State) (v : LinkEndpoint) : (s.setLink v).link = v := rfl
@[simp] theorem setLink_timing (s : State) (v : LinkEndpoint) : (s.setLink v).timing = s.timing := rfl
@[simp] theorem setLink_source (s : State) (v : LinkEndpoint) : (s.setLink v).source = s.source := rfl
@[simp] theorem setLink_capture (s : State) (v : LinkEndpoint) : (s.setLink v).capture = s.capture := rfl
@[simp] theorem setLink_bays (s : State) (v : LinkEndpoint) : (s.setLink v).bays = s.bays := rfl
@[simp] theorem setLink_reader (s : State) (v : LinkEndpoint) : (s.setLink v).reader = s.reader := rfl
@[simp] theorem setLink_store (s : State) (v : LinkEndpoint) : (s.setLink v).store = s.store := rfl
@[simp] theorem setLink_channels (s : State) (v : LinkEndpoint) : (s.setLink v).channels = s.channels := rfl
@[simp] theorem setLink_ports (s : State) (v : LinkEndpoint) : (s.setLink v).ports = s.ports := rfl
@[simp] theorem setLink_triggers (s : State) (v : LinkEndpoint) : (s.setLink v).triggers = s.triggers := rfl
@[simp] theorem setLink_arbiter (s : State) (v : LinkEndpoint) : (s.setLink v).arbiter = s.arbiter := rfl
@[simp] theorem setLink_memory (s : State) (v : LinkEndpoint) : (s.setLink v).memory = s.memory := rfl
@[simp] theorem setLink_status (s : State) (v : LinkEndpoint) : (s.setLink v).status = s.status := rfl

/-! ### setTiming -/

@[simp] theorem setTiming_pending (s : State) (v : Timing) : (s.setTiming v).pending = s.pending := rfl
@[simp] theorem setTiming_device (s : State) (v : Timing) : (s.setTiming v).device = s.device := rfl
@[simp] theorem setTiming_layout (s : State) (v : Timing) : (s.setTiming v).layout = s.layout := rfl
@[simp] theorem setTiming_link (s : State) (v : Timing) : (s.setTiming v).link = s.link := rfl
@[simp] theorem setTiming_timing (s : State) (v : Timing) : (s.setTiming v).timing = v := rfl
@[simp] theorem setTiming_source (s : State) (v : Timing) : (s.setTiming v).source = s.source := rfl
@[simp] theorem setTiming_capture (s : State) (v : Timing) : (s.setTiming v).capture = s.capture := rfl
@[simp] theorem setTiming_bays (s : State) (v : Timing) : (s.setTiming v).bays = s.bays := rfl
@[simp] theorem setTiming_reader (s : State) (v : Timing) : (s.setTiming v).reader = s.reader := rfl
@[simp] theorem setTiming_store (s : State) (v : Timing) : (s.setTiming v).store = s.store := rfl
@[simp] theorem setTiming_channels (s : State) (v : Timing) : (s.setTiming v).channels = s.channels := rfl
@[simp] theorem setTiming_ports (s : State) (v : Timing) : (s.setTiming v).ports = s.ports := rfl
@[simp] theorem setTiming_triggers (s : State) (v : Timing) : (s.setTiming v).triggers = s.triggers := rfl
@[simp] theorem setTiming_arbiter (s : State) (v : Timing) : (s.setTiming v).arbiter = s.arbiter := rfl
@[simp] theorem setTiming_memory (s : State) (v : Timing) : (s.setTiming v).memory = s.memory := rfl
@[simp] theorem setTiming_status (s : State) (v : Timing) : (s.setTiming v).status = s.status := rfl

/-! ### setSource -/

@[simp] theorem setSource_pending (s : State) (v : SourceLink) : (s.setSource v).pending = s.pending := rfl
@[simp] theorem setSource_device (s : State) (v : SourceLink) : (s.setSource v).device = s.device := rfl
@[simp] theorem setSource_layout (s : State) (v : SourceLink) : (s.setSource v).layout = s.layout := rfl
@[simp] theorem setSource_link (s : State) (v : SourceLink) : (s.setSource v).link = s.link := rfl
@[simp] theorem setSource_timing (s : State) (v : SourceLink) : (s.setSource v).timing = s.timing := rfl
@[simp] theorem setSource_source (s : State) (v : SourceLink) : (s.setSource v).source = v := rfl
@[simp] theorem setSource_capture (s : State) (v : SourceLink) : (s.setSource v).capture = s.capture := rfl
@[simp] theorem setSource_bays (s : State) (v : SourceLink) : (s.setSource v).bays = s.bays := rfl
@[simp] theorem setSource_reader (s : State) (v : SourceLink) : (s.setSource v).reader = s.reader := rfl
@[simp] theorem setSource_store (s : State) (v : SourceLink) : (s.setSource v).store = s.store := rfl
@[simp] theorem setSource_channels (s : State) (v : SourceLink) : (s.setSource v).channels = s.channels := rfl
@[simp] theorem setSource_ports (s : State) (v : SourceLink) : (s.setSource v).ports = s.ports := rfl
@[simp] theorem setSource_triggers (s : State) (v : SourceLink) : (s.setSource v).triggers = s.triggers := rfl
@[simp] theorem setSource_arbiter (s : State) (v : SourceLink) : (s.setSource v).arbiter = s.arbiter := rfl
@[simp] theorem setSource_memory (s : State) (v : SourceLink) : (s.setSource v).memory = s.memory := rfl
@[simp] theorem setSource_status (s : State) (v : SourceLink) : (s.setSource v).status = s.status := rfl

/-! ### setCapture -/

@[simp] theorem setCapture_pending (s : State) (v : Capture) : (s.setCapture v).pending = s.pending := rfl
@[simp] theorem setCapture_device (s : State) (v : Capture) : (s.setCapture v).device = s.device := rfl
@[simp] theorem setCapture_layout (s : State) (v : Capture) : (s.setCapture v).layout = s.layout := rfl
@[simp] theorem setCapture_link (s : State) (v : Capture) : (s.setCapture v).link = s.link := rfl
@[simp] theorem setCapture_timing (s : State) (v : Capture) : (s.setCapture v).timing = s.timing := rfl
@[simp] theorem setCapture_source (s : State) (v : Capture) : (s.setCapture v).source = s.source := rfl
@[simp] theorem setCapture_capture (s : State) (v : Capture) : (s.setCapture v).capture = v := rfl
@[simp] theorem setCapture_bays (s : State) (v : Capture) : (s.setCapture v).bays = s.bays := rfl
@[simp] theorem setCapture_reader (s : State) (v : Capture) : (s.setCapture v).reader = s.reader := rfl
@[simp] theorem setCapture_store (s : State) (v : Capture) : (s.setCapture v).store = s.store := rfl
@[simp] theorem setCapture_channels (s : State) (v : Capture) : (s.setCapture v).channels = s.channels := rfl
@[simp] theorem setCapture_ports (s : State) (v : Capture) : (s.setCapture v).ports = s.ports := rfl
@[simp] theorem setCapture_triggers (s : State) (v : Capture) : (s.setCapture v).triggers = s.triggers := rfl
@[simp] theorem setCapture_arbiter (s : State) (v : Capture) : (s.setCapture v).arbiter = s.arbiter := rfl
@[simp] theorem setCapture_memory (s : State) (v : Capture) : (s.setCapture v).memory = s.memory := rfl
@[simp] theorem setCapture_status (s : State) (v : Capture) : (s.setCapture v).status = s.status := rfl

/-! ### setBays -/

@[simp] theorem setBays_pending (s : State) (v : BayControl) : (s.setBays v).pending = s.pending := rfl
@[simp] theorem setBays_device (s : State) (v : BayControl) : (s.setBays v).device = s.device := rfl
@[simp] theorem setBays_layout (s : State) (v : BayControl) : (s.setBays v).layout = s.layout := rfl
@[simp] theorem setBays_link (s : State) (v : BayControl) : (s.setBays v).link = s.link := rfl
@[simp] theorem setBays_timing (s : State) (v : BayControl) : (s.setBays v).timing = s.timing := rfl
@[simp] theorem setBays_source (s : State) (v : BayControl) : (s.setBays v).source = s.source := rfl
@[simp] theorem setBays_capture (s : State) (v : BayControl) : (s.setBays v).capture = s.capture := rfl
@[simp] theorem setBays_bays (s : State) (v : BayControl) : (s.setBays v).bays = v := rfl
@[simp] theorem setBays_reader (s : State) (v : BayControl) : (s.setBays v).reader = s.reader := rfl
@[simp] theorem setBays_store (s : State) (v : BayControl) : (s.setBays v).store = s.store := rfl
@[simp] theorem setBays_channels (s : State) (v : BayControl) : (s.setBays v).channels = s.channels := rfl
@[simp] theorem setBays_ports (s : State) (v : BayControl) : (s.setBays v).ports = s.ports := rfl
@[simp] theorem setBays_triggers (s : State) (v : BayControl) : (s.setBays v).triggers = s.triggers := rfl
@[simp] theorem setBays_arbiter (s : State) (v : BayControl) : (s.setBays v).arbiter = s.arbiter := rfl
@[simp] theorem setBays_memory (s : State) (v : BayControl) : (s.setBays v).memory = s.memory := rfl
@[simp] theorem setBays_status (s : State) (v : BayControl) : (s.setBays v).status = s.status := rfl

/-! ### setReader -/

@[simp] theorem setReader_pending (s : State) (v : EditionReader) : (s.setReader v).pending = s.pending := rfl
@[simp] theorem setReader_device (s : State) (v : EditionReader) : (s.setReader v).device = s.device := rfl
@[simp] theorem setReader_layout (s : State) (v : EditionReader) : (s.setReader v).layout = s.layout := rfl
@[simp] theorem setReader_link (s : State) (v : EditionReader) : (s.setReader v).link = s.link := rfl
@[simp] theorem setReader_timing (s : State) (v : EditionReader) : (s.setReader v).timing = s.timing := rfl
@[simp] theorem setReader_source (s : State) (v : EditionReader) : (s.setReader v).source = s.source := rfl
@[simp] theorem setReader_capture (s : State) (v : EditionReader) : (s.setReader v).capture = s.capture := rfl
@[simp] theorem setReader_bays (s : State) (v : EditionReader) : (s.setReader v).bays = s.bays := rfl
@[simp] theorem setReader_reader (s : State) (v : EditionReader) : (s.setReader v).reader = v := rfl
@[simp] theorem setReader_store (s : State) (v : EditionReader) : (s.setReader v).store = s.store := rfl
@[simp] theorem setReader_channels (s : State) (v : EditionReader) : (s.setReader v).channels = s.channels := rfl
@[simp] theorem setReader_ports (s : State) (v : EditionReader) : (s.setReader v).ports = s.ports := rfl
@[simp] theorem setReader_triggers (s : State) (v : EditionReader) : (s.setReader v).triggers = s.triggers := rfl
@[simp] theorem setReader_arbiter (s : State) (v : EditionReader) : (s.setReader v).arbiter = s.arbiter := rfl
@[simp] theorem setReader_memory (s : State) (v : EditionReader) : (s.setReader v).memory = s.memory := rfl
@[simp] theorem setReader_status (s : State) (v : EditionReader) : (s.setReader v).status = s.status := rfl

/-! ### setStore -/

@[simp] theorem setStore_pending (s : State) (v : TableStore) : (s.setStore v).pending = s.pending := rfl
@[simp] theorem setStore_device (s : State) (v : TableStore) : (s.setStore v).device = s.device := rfl
@[simp] theorem setStore_layout (s : State) (v : TableStore) : (s.setStore v).layout = s.layout := rfl
@[simp] theorem setStore_link (s : State) (v : TableStore) : (s.setStore v).link = s.link := rfl
@[simp] theorem setStore_timing (s : State) (v : TableStore) : (s.setStore v).timing = s.timing := rfl
@[simp] theorem setStore_source (s : State) (v : TableStore) : (s.setStore v).source = s.source := rfl
@[simp] theorem setStore_capture (s : State) (v : TableStore) : (s.setStore v).capture = s.capture := rfl
@[simp] theorem setStore_bays (s : State) (v : TableStore) : (s.setStore v).bays = s.bays := rfl
@[simp] theorem setStore_reader (s : State) (v : TableStore) : (s.setStore v).reader = s.reader := rfl
@[simp] theorem setStore_store (s : State) (v : TableStore) : (s.setStore v).store = v := rfl
@[simp] theorem setStore_channels (s : State) (v : TableStore) : (s.setStore v).channels = s.channels := rfl
@[simp] theorem setStore_ports (s : State) (v : TableStore) : (s.setStore v).ports = s.ports := rfl
@[simp] theorem setStore_triggers (s : State) (v : TableStore) : (s.setStore v).triggers = s.triggers := rfl
@[simp] theorem setStore_arbiter (s : State) (v : TableStore) : (s.setStore v).arbiter = s.arbiter := rfl
@[simp] theorem setStore_memory (s : State) (v : TableStore) : (s.setStore v).memory = s.memory := rfl
@[simp] theorem setStore_status (s : State) (v : TableStore) : (s.setStore v).status = s.status := rfl

/-! ### setChannels -/

@[simp] theorem setChannels_pending (s : State) (v : Arr 6 Channel) : (s.setChannels v).pending = s.pending := rfl
@[simp] theorem setChannels_device (s : State) (v : Arr 6 Channel) : (s.setChannels v).device = s.device := rfl
@[simp] theorem setChannels_layout (s : State) (v : Arr 6 Channel) : (s.setChannels v).layout = s.layout := rfl
@[simp] theorem setChannels_link (s : State) (v : Arr 6 Channel) : (s.setChannels v).link = s.link := rfl
@[simp] theorem setChannels_timing (s : State) (v : Arr 6 Channel) : (s.setChannels v).timing = s.timing := rfl
@[simp] theorem setChannels_source (s : State) (v : Arr 6 Channel) : (s.setChannels v).source = s.source := rfl
@[simp] theorem setChannels_capture (s : State) (v : Arr 6 Channel) : (s.setChannels v).capture = s.capture := rfl
@[simp] theorem setChannels_bays (s : State) (v : Arr 6 Channel) : (s.setChannels v).bays = s.bays := rfl
@[simp] theorem setChannels_reader (s : State) (v : Arr 6 Channel) : (s.setChannels v).reader = s.reader := rfl
@[simp] theorem setChannels_store (s : State) (v : Arr 6 Channel) : (s.setChannels v).store = s.store := rfl
@[simp] theorem setChannels_channels (s : State) (v : Arr 6 Channel) : (s.setChannels v).channels = v := rfl
@[simp] theorem setChannels_ports (s : State) (v : Arr 6 Channel) : (s.setChannels v).ports = s.ports := rfl
@[simp] theorem setChannels_triggers (s : State) (v : Arr 6 Channel) : (s.setChannels v).triggers = s.triggers := rfl
@[simp] theorem setChannels_arbiter (s : State) (v : Arr 6 Channel) : (s.setChannels v).arbiter = s.arbiter := rfl
@[simp] theorem setChannels_memory (s : State) (v : Arr 6 Channel) : (s.setChannels v).memory = s.memory := rfl
@[simp] theorem setChannels_status (s : State) (v : Arr 6 Channel) : (s.setChannels v).status = s.status := rfl

/-! ### setPorts -/

@[simp] theorem setPorts_pending (s : State) (v : Arr 6 Port) : (s.setPorts v).pending = s.pending := rfl
@[simp] theorem setPorts_device (s : State) (v : Arr 6 Port) : (s.setPorts v).device = s.device := rfl
@[simp] theorem setPorts_layout (s : State) (v : Arr 6 Port) : (s.setPorts v).layout = s.layout := rfl
@[simp] theorem setPorts_link (s : State) (v : Arr 6 Port) : (s.setPorts v).link = s.link := rfl
@[simp] theorem setPorts_timing (s : State) (v : Arr 6 Port) : (s.setPorts v).timing = s.timing := rfl
@[simp] theorem setPorts_source (s : State) (v : Arr 6 Port) : (s.setPorts v).source = s.source := rfl
@[simp] theorem setPorts_capture (s : State) (v : Arr 6 Port) : (s.setPorts v).capture = s.capture := rfl
@[simp] theorem setPorts_bays (s : State) (v : Arr 6 Port) : (s.setPorts v).bays = s.bays := rfl
@[simp] theorem setPorts_reader (s : State) (v : Arr 6 Port) : (s.setPorts v).reader = s.reader := rfl
@[simp] theorem setPorts_store (s : State) (v : Arr 6 Port) : (s.setPorts v).store = s.store := rfl
@[simp] theorem setPorts_channels (s : State) (v : Arr 6 Port) : (s.setPorts v).channels = s.channels := rfl
@[simp] theorem setPorts_ports (s : State) (v : Arr 6 Port) : (s.setPorts v).ports = v := rfl
@[simp] theorem setPorts_triggers (s : State) (v : Arr 6 Port) : (s.setPorts v).triggers = s.triggers := rfl
@[simp] theorem setPorts_arbiter (s : State) (v : Arr 6 Port) : (s.setPorts v).arbiter = s.arbiter := rfl
@[simp] theorem setPorts_memory (s : State) (v : Arr 6 Port) : (s.setPorts v).memory = s.memory := rfl
@[simp] theorem setPorts_status (s : State) (v : Arr 6 Port) : (s.setPorts v).status = s.status := rfl

/-! ### setTriggers -/

@[simp] theorem setTriggers_pending (s : State) (v : Triggers) : (s.setTriggers v).pending = s.pending := rfl
@[simp] theorem setTriggers_device (s : State) (v : Triggers) : (s.setTriggers v).device = s.device := rfl
@[simp] theorem setTriggers_layout (s : State) (v : Triggers) : (s.setTriggers v).layout = s.layout := rfl
@[simp] theorem setTriggers_link (s : State) (v : Triggers) : (s.setTriggers v).link = s.link := rfl
@[simp] theorem setTriggers_timing (s : State) (v : Triggers) : (s.setTriggers v).timing = s.timing := rfl
@[simp] theorem setTriggers_source (s : State) (v : Triggers) : (s.setTriggers v).source = s.source := rfl
@[simp] theorem setTriggers_capture (s : State) (v : Triggers) : (s.setTriggers v).capture = s.capture := rfl
@[simp] theorem setTriggers_bays (s : State) (v : Triggers) : (s.setTriggers v).bays = s.bays := rfl
@[simp] theorem setTriggers_reader (s : State) (v : Triggers) : (s.setTriggers v).reader = s.reader := rfl
@[simp] theorem setTriggers_store (s : State) (v : Triggers) : (s.setTriggers v).store = s.store := rfl
@[simp] theorem setTriggers_channels (s : State) (v : Triggers) : (s.setTriggers v).channels = s.channels := rfl
@[simp] theorem setTriggers_ports (s : State) (v : Triggers) : (s.setTriggers v).ports = s.ports := rfl
@[simp] theorem setTriggers_triggers (s : State) (v : Triggers) : (s.setTriggers v).triggers = v := rfl
@[simp] theorem setTriggers_arbiter (s : State) (v : Triggers) : (s.setTriggers v).arbiter = s.arbiter := rfl
@[simp] theorem setTriggers_memory (s : State) (v : Triggers) : (s.setTriggers v).memory = s.memory := rfl
@[simp] theorem setTriggers_status (s : State) (v : Triggers) : (s.setTriggers v).status = s.status := rfl

/-! ### setArbiter -/

@[simp] theorem setArbiter_pending (s : State) (v : Arbiter) : (s.setArbiter v).pending = s.pending := rfl
@[simp] theorem setArbiter_device (s : State) (v : Arbiter) : (s.setArbiter v).device = s.device := rfl
@[simp] theorem setArbiter_layout (s : State) (v : Arbiter) : (s.setArbiter v).layout = s.layout := rfl
@[simp] theorem setArbiter_link (s : State) (v : Arbiter) : (s.setArbiter v).link = s.link := rfl
@[simp] theorem setArbiter_timing (s : State) (v : Arbiter) : (s.setArbiter v).timing = s.timing := rfl
@[simp] theorem setArbiter_source (s : State) (v : Arbiter) : (s.setArbiter v).source = s.source := rfl
@[simp] theorem setArbiter_capture (s : State) (v : Arbiter) : (s.setArbiter v).capture = s.capture := rfl
@[simp] theorem setArbiter_bays (s : State) (v : Arbiter) : (s.setArbiter v).bays = s.bays := rfl
@[simp] theorem setArbiter_reader (s : State) (v : Arbiter) : (s.setArbiter v).reader = s.reader := rfl
@[simp] theorem setArbiter_store (s : State) (v : Arbiter) : (s.setArbiter v).store = s.store := rfl
@[simp] theorem setArbiter_channels (s : State) (v : Arbiter) : (s.setArbiter v).channels = s.channels := rfl
@[simp] theorem setArbiter_ports (s : State) (v : Arbiter) : (s.setArbiter v).ports = s.ports := rfl
@[simp] theorem setArbiter_triggers (s : State) (v : Arbiter) : (s.setArbiter v).triggers = s.triggers := rfl
@[simp] theorem setArbiter_arbiter (s : State) (v : Arbiter) : (s.setArbiter v).arbiter = v := rfl
@[simp] theorem setArbiter_memory (s : State) (v : Arbiter) : (s.setArbiter v).memory = s.memory := rfl
@[simp] theorem setArbiter_status (s : State) (v : Arbiter) : (s.setArbiter v).status = s.status := rfl

/-! ### setMemory -/

@[simp] theorem setMemory_pending (s : State) (v : Memory) : (s.setMemory v).pending = s.pending := rfl
@[simp] theorem setMemory_device (s : State) (v : Memory) : (s.setMemory v).device = s.device := rfl
@[simp] theorem setMemory_layout (s : State) (v : Memory) : (s.setMemory v).layout = s.layout := rfl
@[simp] theorem setMemory_link (s : State) (v : Memory) : (s.setMemory v).link = s.link := rfl
@[simp] theorem setMemory_timing (s : State) (v : Memory) : (s.setMemory v).timing = s.timing := rfl
@[simp] theorem setMemory_source (s : State) (v : Memory) : (s.setMemory v).source = s.source := rfl
@[simp] theorem setMemory_capture (s : State) (v : Memory) : (s.setMemory v).capture = s.capture := rfl
@[simp] theorem setMemory_bays (s : State) (v : Memory) : (s.setMemory v).bays = s.bays := rfl
@[simp] theorem setMemory_reader (s : State) (v : Memory) : (s.setMemory v).reader = s.reader := rfl
@[simp] theorem setMemory_store (s : State) (v : Memory) : (s.setMemory v).store = s.store := rfl
@[simp] theorem setMemory_channels (s : State) (v : Memory) : (s.setMemory v).channels = s.channels := rfl
@[simp] theorem setMemory_ports (s : State) (v : Memory) : (s.setMemory v).ports = s.ports := rfl
@[simp] theorem setMemory_triggers (s : State) (v : Memory) : (s.setMemory v).triggers = s.triggers := rfl
@[simp] theorem setMemory_arbiter (s : State) (v : Memory) : (s.setMemory v).arbiter = s.arbiter := rfl
@[simp] theorem setMemory_memory (s : State) (v : Memory) : (s.setMemory v).memory = v := rfl
@[simp] theorem setMemory_status (s : State) (v : Memory) : (s.setMemory v).status = s.status := rfl

/-! ### setStatus -/

@[simp] theorem setStatus_pending (s : State) (v : Status) : (s.setStatus v).pending = s.pending := rfl
@[simp] theorem setStatus_device (s : State) (v : Status) : (s.setStatus v).device = s.device := rfl
@[simp] theorem setStatus_layout (s : State) (v : Status) : (s.setStatus v).layout = s.layout := rfl
@[simp] theorem setStatus_link (s : State) (v : Status) : (s.setStatus v).link = s.link := rfl
@[simp] theorem setStatus_timing (s : State) (v : Status) : (s.setStatus v).timing = s.timing := rfl
@[simp] theorem setStatus_source (s : State) (v : Status) : (s.setStatus v).source = s.source := rfl
@[simp] theorem setStatus_capture (s : State) (v : Status) : (s.setStatus v).capture = s.capture := rfl
@[simp] theorem setStatus_bays (s : State) (v : Status) : (s.setStatus v).bays = s.bays := rfl
@[simp] theorem setStatus_reader (s : State) (v : Status) : (s.setStatus v).reader = s.reader := rfl
@[simp] theorem setStatus_store (s : State) (v : Status) : (s.setStatus v).store = s.store := rfl
@[simp] theorem setStatus_channels (s : State) (v : Status) : (s.setStatus v).channels = s.channels := rfl
@[simp] theorem setStatus_ports (s : State) (v : Status) : (s.setStatus v).ports = s.ports := rfl
@[simp] theorem setStatus_triggers (s : State) (v : Status) : (s.setStatus v).triggers = s.triggers := rfl
@[simp] theorem setStatus_arbiter (s : State) (v : Status) : (s.setStatus v).arbiter = s.arbiter := rfl
@[simp] theorem setStatus_memory (s : State) (v : Status) : (s.setStatus v).memory = s.memory := rfl
@[simp] theorem setStatus_status (s : State) (v : Status) : (s.setStatus v).status = v := rfl

end Sys2Proof.Machine.State
end

