-- ==== Sys2Proof/Laws/Frame.lean ====
section
/-! SUPPORT. For each shared operation, the parts of the state that it leaves as they are. -/

namespace Sys2Proof.Machine

/-- What `raiseNotice` leaves as it is. -/
@[simp] theorem raiseNotice_frame (g : NoticeGroup) (s : State) :
    (raiseNotice g s).pending = s.pending ∧ (raiseNotice g s).device = s.device ∧
    (raiseNotice g s).layout = s.layout ∧ (raiseNotice g s).timing = s.timing ∧ (raiseNotice g s).source = s.source ∧
    (raiseNotice g s).capture = s.capture ∧ (raiseNotice g s).bays = s.bays ∧ (raiseNotice g s).reader = s.reader ∧
    (raiseNotice g s).store = s.store ∧ (raiseNotice g s).channels = s.channels ∧ (raiseNotice g s).ports = s.ports ∧
    (raiseNotice g s).triggers = s.triggers ∧ (raiseNotice g s).arbiter = s.arbiter ∧
    (raiseNotice g s).memory = s.memory ∧ (raiseNotice g s).status = s.status ∧
    (raiseNotice g s).link.areaBase = s.link.areaBase ∧ (raiseNotice g s).link.noticeEnable = s.link.noticeEnable ∧
    (raiseNotice g s).link.queue = s.link.queue ∧ (raiseNotice g s).link.lastRead = s.link.lastRead := by
  simp [raiseNotice]

/-- What `modifyBay` leaves as it is. -/
@[simp] theorem modifyBay_frame (b : Fin 8) (f : Bay → Bay) (s : State) :
    (modifyBay b f s).pending = s.pending ∧ (modifyBay b f s).device = s.device ∧
    (modifyBay b f s).layout = s.layout ∧ (modifyBay b f s).link = s.link ∧ (modifyBay b f s).timing = s.timing ∧
    (modifyBay b f s).source = s.source ∧ (modifyBay b f s).capture = s.capture ∧
    (modifyBay b f s).reader = s.reader ∧ (modifyBay b f s).store = s.store ∧
    (modifyBay b f s).channels = s.channels ∧ (modifyBay b f s).ports = s.ports ∧
    (modifyBay b f s).triggers = s.triggers ∧ (modifyBay b f s).arbiter = s.arbiter ∧
    (modifyBay b f s).memory = s.memory ∧ (modifyBay b f s).status = s.status ∧
    (modifyBay b f s).bays.liveBay = s.bays.liveBay ∧ (modifyBay b f s).bays.liveTag = s.bays.liveTag ∧
    (modifyBay b f s).bays.unserved = s.bays.unserved := by
  simp [modifyBay]

/-- What `modifyChannel` leaves as it is. -/
@[simp] theorem modifyChannel_frame (c : Fin 6) (f : Channel → Channel) (s : State) :
    (modifyChannel c f s).pending = s.pending ∧ (modifyChannel c f s).device = s.device ∧
    (modifyChannel c f s).layout = s.layout ∧ (modifyChannel c f s).link = s.link ∧
    (modifyChannel c f s).timing = s.timing ∧ (modifyChannel c f s).source = s.source ∧
    (modifyChannel c f s).capture = s.capture ∧ (modifyChannel c f s).bays = s.bays ∧
    (modifyChannel c f s).reader = s.reader ∧ (modifyChannel c f s).store = s.store ∧
    (modifyChannel c f s).ports = s.ports ∧ (modifyChannel c f s).triggers = s.triggers ∧
    (modifyChannel c f s).arbiter = s.arbiter ∧ (modifyChannel c f s).memory = s.memory ∧
    (modifyChannel c f s).status = s.status := by
  simp [modifyChannel]

/-- What `modifyPort` leaves as it is. -/
@[simp] theorem modifyPort_frame (p : Fin 6) (f : Port → Port) (s : State) :
    (modifyPort p f s).pending = s.pending ∧ (modifyPort p f s).device = s.device ∧
    (modifyPort p f s).layout = s.layout ∧ (modifyPort p f s).link = s.link ∧ (modifyPort p f s).timing = s.timing ∧
    (modifyPort p f s).source = s.source ∧ (modifyPort p f s).capture = s.capture ∧
    (modifyPort p f s).bays = s.bays ∧ (modifyPort p f s).reader = s.reader ∧ (modifyPort p f s).store = s.store ∧
    (modifyPort p f s).channels = s.channels ∧ (modifyPort p f s).triggers = s.triggers ∧
    (modifyPort p f s).arbiter = s.arbiter ∧ (modifyPort p f s).memory = s.memory ∧
    (modifyPort p f s).status = s.status := by
  simp [modifyPort]

/-- What `modifyLine` leaves as it is. -/
@[simp] theorem modifyLine_frame (l : Fin 4) (f : Line → Line) (s : State) :
    (modifyLine l f s).pending = s.pending ∧ (modifyLine l f s).device = s.device ∧
    (modifyLine l f s).layout = s.layout ∧ (modifyLine l f s).link = s.link ∧ (modifyLine l f s).timing = s.timing ∧
    (modifyLine l f s).source = s.source ∧ (modifyLine l f s).capture = s.capture ∧
    (modifyLine l f s).bays = s.bays ∧ (modifyLine l f s).reader = s.reader ∧ (modifyLine l f s).store = s.store ∧
    (modifyLine l f s).channels = s.channels ∧ (modifyLine l f s).ports = s.ports ∧
    (modifyLine l f s).arbiter = s.arbiter ∧ (modifyLine l f s).memory = s.memory ∧
    (modifyLine l f s).status = s.status ∧ (modifyLine l f s).triggers.runMark = s.triggers.runMark ∧
    (modifyLine l f s).triggers.edges = s.triggers.edges := by
  simp [modifyLine]

/-- What `handRequests` leaves as it is. -/
@[simp] theorem handRequests_frame (r : List StatusRequest) (s : State) :
    (handRequests r s).pending = s.pending ∧ (handRequests r s).device = s.device ∧ (handRequests r s).layout = s.layout ∧
    (handRequests r s).link = s.link ∧ (handRequests r s).timing = s.timing ∧ (handRequests r s).source = s.source ∧
    (handRequests r s).capture = s.capture ∧ (handRequests r s).bays = s.bays ∧ (handRequests r s).reader = s.reader ∧
    (handRequests r s).store = s.store ∧ (handRequests r s).channels = s.channels ∧ (handRequests r s).ports = s.ports ∧
    (handRequests r s).triggers = s.triggers ∧ (handRequests r s).arbiter = s.arbiter ∧
    (handRequests r s).memory = s.memory ∧ (handRequests r s).status.snapshotCount = s.status.snapshotCount ∧
    (handRequests r s).status.fault = s.status.fault := by
  simp [handRequests]

/-- What `countSnapshot` leaves as it is. -/
@[simp] theorem countSnapshot_frame (s : State) :
    (countSnapshot s).pending = s.pending ∧ (countSnapshot s).device = s.device ∧
    (countSnapshot s).layout = s.layout ∧ (countSnapshot s).link = s.link ∧ (countSnapshot s).timing = s.timing ∧
    (countSnapshot s).source = s.source ∧ (countSnapshot s).capture = s.capture ∧ (countSnapshot s).bays = s.bays ∧
    (countSnapshot s).reader = s.reader ∧ (countSnapshot s).store = s.store ∧
    (countSnapshot s).channels = s.channels ∧ (countSnapshot s).ports = s.ports ∧
    (countSnapshot s).triggers = s.triggers ∧ (countSnapshot s).arbiter = s.arbiter ∧
    (countSnapshot s).memory = s.memory ∧ (countSnapshot s).status.fault = s.status.fault ∧
    (countSnapshot s).status.queue = s.status.queue := by
  simp [countSnapshot]

/-- What `snapshot` leaves as it is. -/
@[simp] theorem snapshot_frame (s : State) :
    (snapshot s).pending = s.pending ∧ (snapshot s).device = s.device ∧ (snapshot s).layout = s.layout ∧
    (snapshot s).link = s.link ∧ (snapshot s).timing = s.timing ∧ (snapshot s).source = s.source ∧
    (snapshot s).capture = s.capture ∧ (snapshot s).bays = s.bays ∧ (snapshot s).reader = s.reader ∧
    (snapshot s).store = s.store ∧ (snapshot s).channels = s.channels ∧ (snapshot s).ports = s.ports ∧
    (snapshot s).triggers = s.triggers ∧ (snapshot s).arbiter = s.arbiter ∧ (snapshot s).memory = s.memory ∧
    (snapshot s).status.fault = s.status.fault := by
  unfold snapshot; (repeat' split) <;> simp

/-- What `setChecker` leaves as it is. -/
@[simp] theorem setChecker_frame (w : Option Walk) (s : State) :
    (setChecker w s).pending = s.pending ∧ (setChecker w s).device = s.device ∧ (setChecker w s).layout = s.layout ∧
    (setChecker w s).link = s.link ∧ (setChecker w s).timing = s.timing ∧ (setChecker w s).source = s.source ∧
    (setChecker w s).capture = s.capture ∧ (setChecker w s).bays = s.bays ∧ (setChecker w s).store = s.store ∧
    (setChecker w s).channels = s.channels ∧ (setChecker w s).ports = s.ports ∧
    (setChecker w s).triggers = s.triggers ∧ (setChecker w s).arbiter = s.arbiter ∧
    (setChecker w s).memory = s.memory ∧ (setChecker w s).status = s.status ∧
    (setChecker w s).reader.loader = s.reader.loader := by
  and_intros <;> first | rfl | simp [setChecker]

/-- What `setLoader` leaves as it is. -/
@[simp] theorem setLoader_frame (w : Option Walk) (s : State) :
    (setLoader w s).pending = s.pending ∧ (setLoader w s).device = s.device ∧ (setLoader w s).layout = s.layout ∧
    (setLoader w s).link = s.link ∧ (setLoader w s).timing = s.timing ∧ (setLoader w s).source = s.source ∧
    (setLoader w s).capture = s.capture ∧ (setLoader w s).bays = s.bays ∧ (setLoader w s).store = s.store ∧
    (setLoader w s).channels = s.channels ∧ (setLoader w s).ports = s.ports ∧ (setLoader w s).triggers = s.triggers ∧
    (setLoader w s).arbiter = s.arbiter ∧ (setLoader w s).memory = s.memory ∧ (setLoader w s).status = s.status ∧
    (setLoader w s).reader.checker = s.reader.checker := by
  and_intros <;> first | rfl | simp [setLoader]

/-- What `setLive` leaves as it is. -/
@[simp] theorem setLive_frame (n : Option (Fin 8)) (tag : Word) (s : State) :
    (setLive n tag s).pending = s.pending ∧ (setLive n tag s).device = s.device ∧
    (setLive n tag s).layout = s.layout ∧ (setLive n tag s).link = s.link ∧ (setLive n tag s).timing = s.timing ∧
    (setLive n tag s).source = s.source ∧ (setLive n tag s).capture = s.capture ∧
    (setLive n tag s).reader = s.reader ∧ (setLive n tag s).store = s.store ∧
    (setLive n tag s).channels = s.channels ∧ (setLive n tag s).ports = s.ports ∧
    (setLive n tag s).triggers = s.triggers ∧ (setLive n tag s).arbiter = s.arbiter ∧
    (setLive n tag s).memory = s.memory ∧ (setLive n tag s).status = s.status ∧
    (setLive n tag s).bays.bays = s.bays.bays ∧ (setLive n tag s).bays.unserved = s.bays.unserved := by
  simp [setLive]

/-- What `clearQuarantine` leaves as it is. -/
@[simp] theorem clearQuarantine_frame (s : State) :
    (clearQuarantine s).pending = s.pending ∧ (clearQuarantine s).device = s.device ∧
    (clearQuarantine s).layout = s.layout ∧ (clearQuarantine s).link = s.link ∧
    (clearQuarantine s).timing = s.timing ∧ (clearQuarantine s).source = s.source ∧
    (clearQuarantine s).capture = s.capture ∧ (clearQuarantine s).bays = s.bays ∧
    (clearQuarantine s).reader = s.reader ∧ (clearQuarantine s).store = s.store ∧
    (clearQuarantine s).ports = s.ports ∧ (clearQuarantine s).triggers = s.triggers ∧
    (clearQuarantine s).arbiter = s.arbiter ∧ (clearQuarantine s).memory = s.memory ∧
    (clearQuarantine s).status = s.status := by
  simp [clearQuarantine]

/-- What `stopTriggers` leaves as it is. -/
@[simp] theorem stopTriggers_frame (s : State) :
    (stopTriggers s).pending = s.pending ∧ (stopTriggers s).device = s.device ∧ (stopTriggers s).layout = s.layout ∧
    (stopTriggers s).link = s.link ∧ (stopTriggers s).timing = s.timing ∧ (stopTriggers s).source = s.source ∧
    (stopTriggers s).capture = s.capture ∧ (stopTriggers s).bays = s.bays ∧ (stopTriggers s).reader = s.reader ∧
    (stopTriggers s).store = s.store ∧ (stopTriggers s).channels = s.channels ∧ (stopTriggers s).ports = s.ports ∧
    (stopTriggers s).arbiter = s.arbiter ∧ (stopTriggers s).memory = s.memory ∧ (stopTriggers s).status = s.status := by
  simp [stopTriggers]

/-- What `pruneWindow` leaves as it is. -/
@[simp] theorem pruneWindow_frame (c : Fin 6) (s : State) :
    (pruneWindow c s).pending = s.pending ∧ (pruneWindow c s).device = s.device ∧
    (pruneWindow c s).layout = s.layout ∧ (pruneWindow c s).link = s.link ∧ (pruneWindow c s).timing = s.timing ∧
    (pruneWindow c s).source = s.source ∧ (pruneWindow c s).capture = s.capture ∧ (pruneWindow c s).bays = s.bays ∧
    (pruneWindow c s).reader = s.reader ∧ (pruneWindow c s).store = s.store ∧ (pruneWindow c s).ports = s.ports ∧
    (pruneWindow c s).triggers = s.triggers ∧ (pruneWindow c s).arbiter = s.arbiter ∧
    (pruneWindow c s).memory = s.memory ∧ (pruneWindow c s).status = s.status := by
  simp [pruneWindow]

/-- What `requestRow` leaves as it is. -/
@[simp] theorem requestRow_frame (c : Fin 6) (s : State) :
    (requestRow c s).pending = s.pending ∧ (requestRow c s).device = s.device ∧
    (requestRow c s).layout = s.layout ∧ (requestRow c s).link = s.link ∧ (requestRow c s).timing = s.timing ∧
    (requestRow c s).source = s.source ∧ (requestRow c s).capture = s.capture ∧ (requestRow c s).bays = s.bays ∧
    (requestRow c s).reader = s.reader ∧ (requestRow c s).store = s.store ∧ (requestRow c s).ports = s.ports ∧
    (requestRow c s).triggers = s.triggers ∧ (requestRow c s).arbiter = s.arbiter ∧
    (requestRow c s).memory = s.memory ∧ (requestRow c s).status = s.status := by
  simp [requestRow]

/-- What `requestRows` leaves as it is. -/
@[simp] theorem requestRows_frame (s : State) :
    (requestRows s).pending = s.pending ∧ (requestRows s).device = s.device ∧
    (requestRows s).layout = s.layout ∧ (requestRows s).link = s.link ∧ (requestRows s).timing = s.timing ∧
    (requestRows s).source = s.source ∧ (requestRows s).capture = s.capture ∧ (requestRows s).bays = s.bays ∧
    (requestRows s).reader = s.reader ∧ (requestRows s).store = s.store ∧ (requestRows s).ports = s.ports ∧
    (requestRows s).triggers = s.triggers ∧ (requestRows s).arbiter = s.arbiter ∧
    (requestRows s).memory = s.memory ∧ (requestRows s).status = s.status := by
  simp [requestRows]

/-- What `startPorts` leaves as it is. -/
@[simp] theorem startPorts_frame (s : State) :
    (startPorts s).pending = s.pending ∧ (startPorts s).device = s.device ∧ (startPorts s).layout = s.layout ∧
    (startPorts s).link = s.link ∧ (startPorts s).timing = s.timing ∧ (startPorts s).source = s.source ∧
    (startPorts s).capture = s.capture ∧ (startPorts s).bays = s.bays ∧ (startPorts s).reader = s.reader ∧
    (startPorts s).store = s.store ∧ (startPorts s).channels = s.channels ∧ (startPorts s).triggers = s.triggers ∧
    (startPorts s).arbiter = s.arbiter ∧ (startPorts s).memory = s.memory ∧ (startPorts s).status = s.status := by
  simp [startPorts]

/-- What `tickLines` leaves as it is. -/
@[simp] theorem tickLines_frame (pins : BitVec 4) (s : State) :
    (tickLines pins s).pending = s.pending ∧ (tickLines pins s).device = s.device ∧
    (tickLines pins s).layout = s.layout ∧ (tickLines pins s).link = s.link ∧ (tickLines pins s).timing = s.timing ∧
    (tickLines pins s).source = s.source ∧ (tickLines pins s).capture = s.capture ∧
    (tickLines pins s).bays = s.bays ∧ (tickLines pins s).reader = s.reader ∧ (tickLines pins s).store = s.store ∧
    (tickLines pins s).channels = s.channels ∧ (tickLines pins s).ports = s.ports ∧
    (tickLines pins s).arbiter = s.arbiter ∧ (tickLines pins s).memory = s.memory ∧
    (tickLines pins s).status = s.status ∧ (tickLines pins s).triggers.runMark = s.triggers.runMark ∧
    (tickLines pins s).triggers.edges = s.triggers.edges := by
  unfold tickLines; (repeat' split) <;> simp

/-- What `tickPorts` leaves as it is. -/
@[simp] theorem tickPorts_frame (presence : BitVec 6) (s : State) :
    (tickPorts presence s).pending = s.pending ∧ (tickPorts presence s).device = s.device ∧
    (tickPorts presence s).layout = s.layout ∧ (tickPorts presence s).link = s.link ∧
    (tickPorts presence s).timing = s.timing ∧ (tickPorts presence s).source = s.source ∧
    (tickPorts presence s).capture = s.capture ∧ (tickPorts presence s).bays = s.bays ∧
    (tickPorts presence s).reader = s.reader ∧ (tickPorts presence s).store = s.store ∧
    (tickPorts presence s).channels = s.channels ∧ (tickPorts presence s).triggers = s.triggers ∧
    (tickPorts presence s).arbiter = s.arbiter ∧ (tickPorts presence s).memory = s.memory ∧
    (tickPorts presence s).status = s.status := by
  simp [tickPorts]

/-- What `countStop` leaves as it is. -/
@[simp] theorem countStop_frame (s : State) :
    (countStop s).pending = s.pending ∧ (countStop s).layout = s.layout ∧ (countStop s).link = s.link ∧
    (countStop s).timing = s.timing ∧ (countStop s).source = s.source ∧ (countStop s).capture = s.capture ∧
    (countStop s).bays = s.bays ∧ (countStop s).reader = s.reader ∧ (countStop s).store = s.store ∧
    (countStop s).channels = s.channels ∧ (countStop s).ports = s.ports ∧ (countStop s).triggers = s.triggers ∧
    (countStop s).arbiter = s.arbiter ∧ (countStop s).memory = s.memory ∧ (countStop s).status = s.status ∧
    (countStop s).device.state = s.device.state ∧ (countStop s).device.refusal = s.device.refusal ∧
    (countStop s).device.validatedArea = s.device.validatedArea ∧ (countStop s).device.returned = s.device.returned := by
  unfold countStop; (repeat' split) <;> simp

/-- What `linkReset` leaves as it is. -/
@[simp] theorem linkReset_frame (s : State) :
    (linkReset s).pending = s.pending ∧ (linkReset s).device = s.device ∧ (linkReset s).layout = s.layout ∧
    (linkReset s).timing = s.timing ∧ (linkReset s).source = s.source ∧ (linkReset s).capture = s.capture ∧
    (linkReset s).bays = s.bays ∧ (linkReset s).reader = s.reader ∧ (linkReset s).store = s.store ∧
    (linkReset s).channels = s.channels ∧ (linkReset s).ports = s.ports ∧ (linkReset s).triggers = s.triggers ∧
    (linkReset s).arbiter = s.arbiter ∧ (linkReset s).memory = s.memory ∧ (linkReset s).status = s.status ∧
    (linkReset s).link.areaBase = s.link.areaBase ∧ (linkReset s).link.lastRead = s.link.lastRead := by
  simp [linkReset]

/-- What `handReads` leaves as it is. -/
@[simp] theorem handReads_frame (area : Nat) (s : State) :
    (handReads area s).pending = s.pending ∧ (handReads area s).device = s.device ∧
    (handReads area s).layout = s.layout ∧ (handReads area s).link = s.link ∧ (handReads area s).timing = s.timing ∧
    (handReads area s).source = s.source ∧ (handReads area s).capture = s.capture ∧
    (handReads area s).bays = s.bays ∧ (handReads area s).reader = s.reader ∧ (handReads area s).store = s.store ∧
    (handReads area s).channels = s.channels ∧ (handReads area s).ports = s.ports ∧
    (handReads area s).triggers = s.triggers ∧ (handReads area s).arbiter = s.arbiter ∧
    (handReads area s).memory = s.memory ∧ (handReads area s).status.snapshotCount = s.status.snapshotCount ∧
    (handReads area s).status.fault = s.status.fault := by
  simp [handReads]

/-- What `latchProfile` leaves as it is. -/
@[simp] theorem latchProfile_frame (h : Header) (s : State) :
    (latchProfile h s).pending = s.pending ∧ (latchProfile h s).device = s.device ∧
    (latchProfile h s).link = s.link ∧ (latchProfile h s).timing = s.timing ∧ (latchProfile h s).source = s.source ∧
    (latchProfile h s).capture = s.capture ∧ (latchProfile h s).bays = s.bays ∧
    (latchProfile h s).reader = s.reader ∧ (latchProfile h s).store = s.store ∧
    (latchProfile h s).channels = s.channels ∧ (latchProfile h s).ports = s.ports ∧
    (latchProfile h s).triggers = s.triggers ∧ (latchProfile h s).memory = s.memory ∧
    (latchProfile h s).status = s.status := by
  simp [latchProfile]

/-- What `delay` leaves as it is. -/
@[simp] theorem delay_frame (a : LinkAccess) (s : State) :
    (delay a s).pending = s.pending ∧ (delay a s).device = s.device ∧ (delay a s).layout = s.layout ∧
    (delay a s).timing = s.timing ∧ (delay a s).source = s.source ∧ (delay a s).capture = s.capture ∧
    (delay a s).bays = s.bays ∧ (delay a s).reader = s.reader ∧ (delay a s).store = s.store ∧
    (delay a s).channels = s.channels ∧ (delay a s).ports = s.ports ∧ (delay a s).triggers = s.triggers ∧
    (delay a s).arbiter = s.arbiter ∧ (delay a s).memory = s.memory ∧ (delay a s).status = s.status ∧
    (delay a s).link.areaBase = s.link.areaBase ∧ (delay a s).link.notice = s.link.notice ∧
    (delay a s).link.noticeEnable = s.link.noticeEnable ∧ (delay a s).link.lastRead = s.link.lastRead := by
  simp [delay]

/-- What `applyWrites` leaves as it is. -/
@[simp] theorem applyWrites_frame (l : List BankWrite) (s : State) :
    (applyWrites l s).pending = s.pending ∧ (applyWrites l s).device = s.device ∧
    (applyWrites l s).layout = s.layout ∧ (applyWrites l s).link = s.link ∧ (applyWrites l s).timing = s.timing ∧
    (applyWrites l s).source = s.source ∧ (applyWrites l s).capture = s.capture ∧ (applyWrites l s).bays = s.bays ∧
    (applyWrites l s).reader = s.reader ∧ (applyWrites l s).channels = s.channels ∧
    (applyWrites l s).ports = s.ports ∧ (applyWrites l s).triggers = s.triggers ∧
    (applyWrites l s).arbiter = s.arbiter ∧ (applyWrites l s).memory = s.memory ∧ (applyWrites l s).status = s.status := by
  simp [applyWrites]

/-- What `takeReturn` leaves as it is. -/
@[simp] theorem takeReturn_frame (k : StartBlock) (bytes : List Byte) (wanted : Bool) (s : State) :
    (takeReturn k bytes wanted s).pending = s.pending ∧ (takeReturn k bytes wanted s).layout = s.layout ∧
    (takeReturn k bytes wanted s).link = s.link ∧ (takeReturn k bytes wanted s).timing = s.timing ∧
    (takeReturn k bytes wanted s).source = s.source ∧ (takeReturn k bytes wanted s).capture = s.capture ∧
    (takeReturn k bytes wanted s).bays = s.bays ∧ (takeReturn k bytes wanted s).reader = s.reader ∧
    (takeReturn k bytes wanted s).store = s.store ∧ (takeReturn k bytes wanted s).channels = s.channels ∧
    (takeReturn k bytes wanted s).ports = s.ports ∧ (takeReturn k bytes wanted s).triggers = s.triggers ∧
    (takeReturn k bytes wanted s).arbiter = s.arbiter ∧ (takeReturn k bytes wanted s).memory = s.memory ∧
    (takeReturn k bytes wanted s).status = s.status ∧ (takeReturn k bytes wanted s).device.state = s.device.state ∧
    (takeReturn k bytes wanted s).device.refusal = s.device.refusal ∧
    (takeReturn k bytes wanted s).device.stopCount = s.device.stopCount ∧
    (takeReturn k bytes wanted s).device.validatedArea = s.device.validatedArea := by
  unfold takeReturn; (repeat' split) <;> simp

/-- What `deviceReset` leaves as it is. -/
@[simp] theorem deviceReset_frame (s : State) :
    (deviceReset s).pending = s.pending ∧ (deviceReset s).link = s.link ∧ (deviceReset s).source = s.source ∧
    (deviceReset s).memory.cells = s.memory.cells ∧ (deviceReset s).memory.errors = s.memory.errors := by
  simp [deviceReset]

/-- What `raiseIf` leaves as it is. -/
@[simp] theorem raiseIf_frame (r : Bool) (g : NoticeGroup) (s : State) :
    (raiseIf r g s).pending = s.pending ∧ (raiseIf r g s).device = s.device ∧ (raiseIf r g s).layout = s.layout ∧
    (raiseIf r g s).timing = s.timing ∧ (raiseIf r g s).source = s.source ∧ (raiseIf r g s).capture = s.capture ∧
    (raiseIf r g s).bays = s.bays ∧ (raiseIf r g s).reader = s.reader ∧ (raiseIf r g s).store = s.store ∧
    (raiseIf r g s).channels = s.channels ∧ (raiseIf r g s).ports = s.ports ∧ (raiseIf r g s).triggers = s.triggers ∧
    (raiseIf r g s).arbiter = s.arbiter ∧ (raiseIf r g s).memory = s.memory ∧ (raiseIf r g s).status = s.status ∧
    (raiseIf r g s).link.areaBase = s.link.areaBase ∧ (raiseIf r g s).link.noticeEnable = s.link.noticeEnable ∧
    (raiseIf r g s).link.queue = s.link.queue ∧ (raiseIf r g s).link.lastRead = s.link.lastRead := by
  unfold raiseIf; (repeat' split) <;> simp

/-- What `handFields` leaves as it is. -/
@[simp] theorem handFields_frame (o : Nat) (l : List (Nat × Nat × Nat)) (s : State) :
    (handFields o l s).pending = s.pending ∧ (handFields o l s).device = s.device ∧
    (handFields o l s).layout = s.layout ∧ (handFields o l s).link = s.link ∧ (handFields o l s).timing = s.timing ∧
    (handFields o l s).source = s.source ∧ (handFields o l s).capture = s.capture ∧
    (handFields o l s).bays = s.bays ∧ (handFields o l s).reader = s.reader ∧ (handFields o l s).store = s.store ∧
    (handFields o l s).channels = s.channels ∧ (handFields o l s).ports = s.ports ∧
    (handFields o l s).triggers = s.triggers ∧ (handFields o l s).arbiter = s.arbiter ∧
    (handFields o l s).memory = s.memory ∧ (handFields o l s).status.snapshotCount = s.status.snapshotCount ∧
    (handFields o l s).status.fault = s.status.fault := by
  unfold handFields; (repeat' split) <;> simp

/-- What `passEdge` leaves as it is. -/
@[simp] theorem passEdge_frame (l : Fin 4) (d : Direction) (s : State) :
    (passEdge l d s).pending = s.pending ∧ (passEdge l d s).device = s.device ∧ (passEdge l d s).layout = s.layout ∧
    (passEdge l d s).timing = s.timing ∧ (passEdge l d s).source = s.source ∧ (passEdge l d s).capture = s.capture ∧
    (passEdge l d s).bays = s.bays ∧ (passEdge l d s).reader = s.reader ∧ (passEdge l d s).store = s.store ∧
    (passEdge l d s).channels = s.channels ∧ (passEdge l d s).ports = s.ports ∧ (passEdge l d s).arbiter = s.arbiter ∧
    (passEdge l d s).memory = s.memory ∧ (passEdge l d s).status = s.status ∧
    (passEdge l d s).link.areaBase = s.link.areaBase ∧ (passEdge l d s).link.noticeEnable = s.link.noticeEnable ∧
    (passEdge l d s).link.queue = s.link.queue ∧ (passEdge l d s).link.lastRead = s.link.lastRead ∧
    (passEdge l d s).triggers.runMark = s.triggers.runMark ∧ (passEdge l d s).triggers.lines = s.triggers.lines := by
  simp [passEdge]

/-- What `joinMoment` leaves as it is. -/
@[simp] theorem joinMoment_frame (n : Nat) (s : State) :
    (joinMoment n s).pending = s.pending ∧ (joinMoment n s).device = s.device ∧ (joinMoment n s).layout = s.layout ∧
    (joinMoment n s).link = s.link ∧ (joinMoment n s).timing = s.timing ∧ (joinMoment n s).source = s.source ∧
    (joinMoment n s).capture = s.capture ∧ (joinMoment n s).bays = s.bays ∧ (joinMoment n s).reader = s.reader ∧
    (joinMoment n s).store = s.store ∧ (joinMoment n s).channels = s.channels ∧ (joinMoment n s).ports = s.ports ∧
    (joinMoment n s).arbiter = s.arbiter ∧ (joinMoment n s).memory = s.memory ∧ (joinMoment n s).status = s.status ∧
    (joinMoment n s).triggers.runMark = s.triggers.runMark ∧ (joinMoment n s).triggers.lines = s.triggers.lines := by
  simp [joinMoment]

/-- What `countUnserved` leaves as it is. -/
@[simp] theorem countUnserved_frame (s : State) :
    (countUnserved s).pending = s.pending ∧ (countUnserved s).device = s.device ∧
    (countUnserved s).layout = s.layout ∧ (countUnserved s).timing = s.timing ∧ (countUnserved s).source = s.source ∧
    (countUnserved s).capture = s.capture ∧ (countUnserved s).reader = s.reader ∧ (countUnserved s).store = s.store ∧
    (countUnserved s).channels = s.channels ∧ (countUnserved s).ports = s.ports ∧
    (countUnserved s).triggers = s.triggers ∧ (countUnserved s).arbiter = s.arbiter ∧
    (countUnserved s).memory = s.memory ∧ (countUnserved s).status = s.status ∧
    (countUnserved s).link.areaBase = s.link.areaBase ∧ (countUnserved s).link.noticeEnable = s.link.noticeEnable ∧
    (countUnserved s).link.queue = s.link.queue ∧ (countUnserved s).link.lastRead = s.link.lastRead ∧
    (countUnserved s).bays.bays = s.bays.bays ∧ (countUnserved s).bays.liveBay = s.bays.liveBay ∧
    (countUnserved s).bays.liveTag = s.bays.liveTag := by
  simp [countUnserved]

/-- What `initialiseLine` leaves as it is. -/
@[simp] theorem initialiseLine_frame (l : Fin 4) (u : LineSetup) (pin : Bool) (s : State) :
    (initialiseLine l u pin s).pending = s.pending ∧ (initialiseLine l u pin s).device = s.device ∧
    (initialiseLine l u pin s).layout = s.layout ∧ (initialiseLine l u pin s).link = s.link ∧
    (initialiseLine l u pin s).timing = s.timing ∧ (initialiseLine l u pin s).source = s.source ∧
    (initialiseLine l u pin s).capture = s.capture ∧ (initialiseLine l u pin s).bays = s.bays ∧
    (initialiseLine l u pin s).reader = s.reader ∧ (initialiseLine l u pin s).store = s.store ∧
    (initialiseLine l u pin s).channels = s.channels ∧ (initialiseLine l u pin s).ports = s.ports ∧
    (initialiseLine l u pin s).arbiter = s.arbiter ∧ (initialiseLine l u pin s).memory = s.memory ∧
    (initialiseLine l u pin s).status = s.status ∧ (initialiseLine l u pin s).triggers.runMark = s.triggers.runMark ∧
    (initialiseLine l u pin s).triggers.edges = s.triggers.edges := by
  simp [initialiseLine]

/-- What `passPixel` leaves as it is. -/
@[simp] theorem passPixel_frame (c : Fin 6) (k : Bool) (s : State) :
    (passPixel c k s).pending = s.pending ∧ (passPixel c k s).device = s.device ∧
    (passPixel c k s).layout = s.layout ∧ (passPixel c k s).link = s.link ∧ (passPixel c k s).timing = s.timing ∧
    (passPixel c k s).source = s.source ∧ (passPixel c k s).capture = s.capture ∧ (passPixel c k s).bays = s.bays ∧
    (passPixel c k s).reader = s.reader ∧ (passPixel c k s).store = s.store ∧ (passPixel c k s).ports = s.ports ∧
    (passPixel c k s).triggers = s.triggers ∧ (passPixel c k s).arbiter = s.arbiter ∧
    (passPixel c k s).memory = s.memory ∧ (passPixel c k s).status = s.status := by
  simp [passPixel]

/-- What `sendCodes` leaves as it is. -/
@[simp] theorem sendCodes_frame (p : Fin 6) (k : Codes) (s : State) :
    (sendCodes p k s).pending = s.pending ∧ (sendCodes p k s).device = s.device ∧
    (sendCodes p k s).layout = s.layout ∧ (sendCodes p k s).link = s.link ∧ (sendCodes p k s).timing = s.timing ∧
    (sendCodes p k s).source = s.source ∧ (sendCodes p k s).capture = s.capture ∧ (sendCodes p k s).bays = s.bays ∧
    (sendCodes p k s).reader = s.reader ∧ (sendCodes p k s).store = s.store ∧
    (sendCodes p k s).channels = s.channels ∧ (sendCodes p k s).triggers = s.triggers ∧
    (sendCodes p k s).arbiter = s.arbiter ∧ (sendCodes p k s).memory = s.memory ∧ (sendCodes p k s).status = s.status := by
  simp [sendCodes]

/-- What `stopChannelOf` leaves as it is. -/
@[simp] theorem stopChannelOf_frame (p : Fin 6) (s : State) :
    (stopChannelOf p s).pending = s.pending ∧ (stopChannelOf p s).device = s.device ∧
    (stopChannelOf p s).layout = s.layout ∧ (stopChannelOf p s).link = s.link ∧
    (stopChannelOf p s).timing = s.timing ∧ (stopChannelOf p s).source = s.source ∧
    (stopChannelOf p s).capture = s.capture ∧ (stopChannelOf p s).bays = s.bays ∧
    (stopChannelOf p s).reader = s.reader ∧ (stopChannelOf p s).store = s.store ∧
    (stopChannelOf p s).ports = s.ports ∧ (stopChannelOf p s).triggers = s.triggers ∧
    (stopChannelOf p s).arbiter = s.arbiter ∧ (stopChannelOf p s).memory = s.memory ∧
    (stopChannelOf p s).status = s.status := by
  unfold stopChannelOf; (repeat' split) <;> simp

/-- What `powerOn` leaves as it is. -/
@[simp] theorem powerOn_frame (found : FoundMemory) (s : State) :
    (powerOn found s).pending = s.pending ∧ (powerOn found s).source = s.source := by
  simp [powerOn]

/-- What `takeFault` leaves as it is. -/
@[simp] theorem takeFault_frame (k : FaultKind) (d : Word) (s : State) :
    (takeFault k d s).pending = s.pending ∧ (takeFault k d s).device = s.device ∧
    (takeFault k d s).layout = s.layout ∧ (takeFault k d s).timing = s.timing ∧ (takeFault k d s).source = s.source ∧
    (takeFault k d s).capture = s.capture ∧ (takeFault k d s).bays = s.bays ∧ (takeFault k d s).reader = s.reader ∧
    (takeFault k d s).store = s.store ∧ (takeFault k d s).channels = s.channels ∧ (takeFault k d s).ports = s.ports ∧
    (takeFault k d s).triggers = s.triggers ∧ (takeFault k d s).arbiter = s.arbiter ∧
    (takeFault k d s).memory = s.memory ∧ (takeFault k d s).link.areaBase = s.link.areaBase ∧
    (takeFault k d s).link.noticeEnable = s.link.noticeEnable ∧ (takeFault k d s).link.queue = s.link.queue ∧
    (takeFault k d s).link.lastRead = s.link.lastRead ∧ (takeFault k d s).status.queue = s.status.queue ∧
    (takeFault k d s).status.snapshotCount = s.status.snapshotCount := by
  simp [takeFault]

/-- What `setTimingNoticed` leaves as it is. -/
@[simp] theorem setTimingNoticed_frame (t : Timing) (s : State) :
    (setTimingNoticed t s).pending = s.pending ∧ (setTimingNoticed t s).device = s.device ∧
    (setTimingNoticed t s).layout = s.layout ∧ (setTimingNoticed t s).source = s.source ∧
    (setTimingNoticed t s).capture = s.capture ∧ (setTimingNoticed t s).bays = s.bays ∧
    (setTimingNoticed t s).reader = s.reader ∧ (setTimingNoticed t s).store = s.store ∧
    (setTimingNoticed t s).channels = s.channels ∧ (setTimingNoticed t s).ports = s.ports ∧
    (setTimingNoticed t s).triggers = s.triggers ∧ (setTimingNoticed t s).arbiter = s.arbiter ∧
    (setTimingNoticed t s).memory = s.memory ∧ (setTimingNoticed t s).status = s.status ∧
    (setTimingNoticed t s).link.areaBase = s.link.areaBase ∧
    (setTimingNoticed t s).link.noticeEnable = s.link.noticeEnable ∧
    (setTimingNoticed t s).link.queue = s.link.queue ∧ (setTimingNoticed t s).link.lastRead = s.link.lastRead := by
  simp [setTimingNoticed]

/-- What `changeBay` leaves as it is. -/
@[simp] theorem changeBay_frame (b : Fin 8) (f : Bay → Bay) (l : List (Nat × Nat × Nat)) (s : State) :
    (changeBay b f l s).pending = s.pending ∧ (changeBay b f l s).device = s.device ∧
    (changeBay b f l s).layout = s.layout ∧ (changeBay b f l s).timing = s.timing ∧
    (changeBay b f l s).source = s.source ∧ (changeBay b f l s).capture = s.capture ∧
    (changeBay b f l s).reader = s.reader ∧ (changeBay b f l s).store = s.store ∧
    (changeBay b f l s).channels = s.channels ∧ (changeBay b f l s).ports = s.ports ∧
    (changeBay b f l s).triggers = s.triggers ∧ (changeBay b f l s).arbiter = s.arbiter ∧
    (changeBay b f l s).memory = s.memory ∧ (changeBay b f l s).link.areaBase = s.link.areaBase ∧
    (changeBay b f l s).link.noticeEnable = s.link.noticeEnable ∧ (changeBay b f l s).link.queue = s.link.queue ∧
    (changeBay b f l s).link.lastRead = s.link.lastRead ∧ (changeBay b f l s).bays.liveBay = s.bays.liveBay ∧
    (changeBay b f l s).bays.liveTag = s.bays.liveTag ∧ (changeBay b f l s).bays.unserved = s.bays.unserved ∧
    (changeBay b f l s).status.snapshotCount = s.status.snapshotCount ∧
    (changeBay b f l s).status.fault = s.status.fault := by
  simp [changeBay]

/-- What `deliverEdge` leaves as it is. -/
@[simp] theorem deliverEdge_frame (l : Fin 4) (s : State) :
    (deliverEdge l s).pending = s.pending ∧ (deliverEdge l s).device = s.device ∧
    (deliverEdge l s).layout = s.layout ∧ (deliverEdge l s).timing = s.timing ∧ (deliverEdge l s).source = s.source ∧
    (deliverEdge l s).capture = s.capture ∧ (deliverEdge l s).bays = s.bays ∧ (deliverEdge l s).reader = s.reader ∧
    (deliverEdge l s).store = s.store ∧ (deliverEdge l s).channels = s.channels ∧ (deliverEdge l s).ports = s.ports ∧
    (deliverEdge l s).arbiter = s.arbiter ∧ (deliverEdge l s).memory = s.memory ∧
    (deliverEdge l s).status = s.status ∧ (deliverEdge l s).link.areaBase = s.link.areaBase ∧
    (deliverEdge l s).link.noticeEnable = s.link.noticeEnable ∧ (deliverEdge l s).link.queue = s.link.queue ∧
    (deliverEdge l s).link.lastRead = s.link.lastRead ∧ (deliverEdge l s).triggers.runMark = s.triggers.runMark := by
  unfold deliverEdge; dsimp only; (repeat' split) <;> simp

/-- What `initialiseLines` leaves as it is. -/
@[simp] theorem initialiseLines_frame (u : Fin 4 → LineSetup) (pins : BitVec 4) (s : State) :
    (initialiseLines u pins s).pending = s.pending ∧ (initialiseLines u pins s).device = s.device ∧
    (initialiseLines u pins s).layout = s.layout ∧ (initialiseLines u pins s).link = s.link ∧
    (initialiseLines u pins s).timing = s.timing ∧ (initialiseLines u pins s).source = s.source ∧
    (initialiseLines u pins s).capture = s.capture ∧ (initialiseLines u pins s).bays = s.bays ∧
    (initialiseLines u pins s).reader = s.reader ∧ (initialiseLines u pins s).store = s.store ∧
    (initialiseLines u pins s).channels = s.channels ∧ (initialiseLines u pins s).ports = s.ports ∧
    (initialiseLines u pins s).arbiter = s.arbiter ∧ (initialiseLines u pins s).memory = s.memory ∧
    (initialiseLines u pins s).status = s.status ∧ (initialiseLines u pins s).triggers.edges = s.triggers.edges := by
  have h : (fun s : State => (s.pending, s.device, s.layout, s.link, s.timing, s.source, s.capture, s.bays, s.reader, s.store, s.channels, s.ports, s.arbiter, s.memory, s.status, s.triggers.edges)) ((allOf 4).foldl (fun t l => initialiseLine l (u l) (pins.getLsbD l.val) t) s) = (fun s : State => (s.pending, s.device, s.layout, s.link, s.timing, s.source, s.capture, s.bays, s.reader, s.store, s.channels, s.ports, s.arbiter, s.memory, s.status, s.triggers.edges)) s := by
    refine foldl_keeps (fun s : State => (s.pending, s.device, s.layout, s.link, s.timing, s.source, s.capture, s.bays, s.reader, s.store, s.channels, s.ports, s.arbiter, s.memory, s.status, s.triggers.edges)) _ ?_ _ _; intro s a; (try dsimp only); (repeat' split) <;> simp
  simpa [initialiseLines] using h

/-- What `changeCapture` leaves as it is. -/
@[simp] theorem changeCapture_frame (f : Capture → Capture) (s : State) :
    (changeCapture f s).pending = s.pending ∧ (changeCapture f s).device = s.device ∧
    (changeCapture f s).layout = s.layout ∧ (changeCapture f s).timing = s.timing ∧
    (changeCapture f s).source = s.source ∧ (changeCapture f s).bays = s.bays ∧
    (changeCapture f s).reader = s.reader ∧ (changeCapture f s).store = s.store ∧
    (changeCapture f s).channels = s.channels ∧ (changeCapture f s).ports = s.ports ∧
    (changeCapture f s).triggers = s.triggers ∧ (changeCapture f s).arbiter = s.arbiter ∧
    (changeCapture f s).memory = s.memory ∧ (changeCapture f s).status = s.status ∧
    (changeCapture f s).link.areaBase = s.link.areaBase ∧
    (changeCapture f s).link.noticeEnable = s.link.noticeEnable ∧ (changeCapture f s).link.queue = s.link.queue ∧
    (changeCapture f s).link.lastRead = s.link.lastRead := by
  unfold changeCapture; (repeat' split) <;> simp

/-- What `closeCounts` leaves as it is. -/
@[simp] theorem closeCounts_frame (c : Fin 6) (s : State) :
    (closeCounts c s).pending = s.pending ∧ (closeCounts c s).device = s.device ∧
    (closeCounts c s).layout = s.layout ∧ (closeCounts c s).timing = s.timing ∧ (closeCounts c s).source = s.source ∧
    (closeCounts c s).capture = s.capture ∧ (closeCounts c s).bays = s.bays ∧ (closeCounts c s).reader = s.reader ∧
    (closeCounts c s).store = s.store ∧ (closeCounts c s).ports = s.ports ∧ (closeCounts c s).triggers = s.triggers ∧
    (closeCounts c s).arbiter = s.arbiter ∧ (closeCounts c s).memory = s.memory ∧
    (closeCounts c s).status = s.status ∧ (closeCounts c s).link.areaBase = s.link.areaBase ∧
    (closeCounts c s).link.noticeEnable = s.link.noticeEnable ∧ (closeCounts c s).link.queue = s.link.queue ∧
    (closeCounts c s).link.lastRead = s.link.lastRead := by
  simp [closeCounts]

/-- What `leaveUp` leaves as it is. -/
@[simp] theorem leaveUp_frame (k : LinkState) (p : Fin 6) (s : State) :
    (leaveUp k p s).pending = s.pending ∧ (leaveUp k p s).device = s.device ∧ (leaveUp k p s).layout = s.layout ∧
    (leaveUp k p s).link = s.link ∧ (leaveUp k p s).timing = s.timing ∧ (leaveUp k p s).source = s.source ∧
    (leaveUp k p s).capture = s.capture ∧ (leaveUp k p s).bays = s.bays ∧ (leaveUp k p s).reader = s.reader ∧
    (leaveUp k p s).store = s.store ∧ (leaveUp k p s).ports = s.ports ∧ (leaveUp k p s).triggers = s.triggers ∧
    (leaveUp k p s).arbiter = s.arbiter ∧ (leaveUp k p s).memory = s.memory ∧ (leaveUp k p s).status = s.status := by
  unfold leaveUp; (repeat' split) <;> simp

/-- What `endPorts` leaves as it is. -/
@[simp] theorem endPorts_frame (s : State) :
    (endPorts s).pending = s.pending ∧ (endPorts s).device = s.device ∧ (endPorts s).layout = s.layout ∧
    (endPorts s).timing = s.timing ∧ (endPorts s).source = s.source ∧ (endPorts s).capture = s.capture ∧
    (endPorts s).bays = s.bays ∧ (endPorts s).reader = s.reader ∧ (endPorts s).store = s.store ∧
    (endPorts s).channels = s.channels ∧ (endPorts s).triggers = s.triggers ∧ (endPorts s).arbiter = s.arbiter ∧
    (endPorts s).memory = s.memory ∧ (endPorts s).status = s.status ∧ (endPorts s).link.areaBase = s.link.areaBase ∧
    (endPorts s).link.noticeEnable = s.link.noticeEnable ∧ (endPorts s).link.queue = s.link.queue ∧
    (endPorts s).link.lastRead = s.link.lastRead := by
  simp [endPorts]

/-- What `normaliseBay` leaves as it is. -/
@[simp] theorem normaliseBay_frame (b : Fin 8) (r : BayRecord) (s : State) :
    (normaliseBay b r s).pending = s.pending ∧ (normaliseBay b r s).device = s.device ∧
    (normaliseBay b r s).layout = s.layout ∧ (normaliseBay b r s).link = s.link ∧
    (normaliseBay b r s).timing = s.timing ∧ (normaliseBay b r s).source = s.source ∧
    (normaliseBay b r s).capture = s.capture ∧ (normaliseBay b r s).reader = s.reader ∧
    (normaliseBay b r s).store = s.store ∧ (normaliseBay b r s).channels = s.channels ∧
    (normaliseBay b r s).ports = s.ports ∧ (normaliseBay b r s).triggers = s.triggers ∧
    (normaliseBay b r s).arbiter = s.arbiter ∧ (normaliseBay b r s).memory = s.memory ∧
    (normaliseBay b r s).bays.liveBay = s.bays.liveBay ∧ (normaliseBay b r s).bays.liveTag = s.bays.liveTag ∧
    (normaliseBay b r s).bays.unserved = s.bays.unserved ∧
    (normaliseBay b r s).status.snapshotCount = s.status.snapshotCount ∧
    (normaliseBay b r s).status.fault = s.status.fault := by
  simp [normaliseBay]

/-- What `rewriteHeld` leaves as it is. -/
@[simp] theorem rewriteHeld_frame (b : Fin 8) (s : State) :
    (rewriteHeld b s).pending = s.pending ∧ (rewriteHeld b s).device = s.device ∧
    (rewriteHeld b s).layout = s.layout ∧ (rewriteHeld b s).link = s.link ∧ (rewriteHeld b s).timing = s.timing ∧
    (rewriteHeld b s).source = s.source ∧ (rewriteHeld b s).capture = s.capture ∧ (rewriteHeld b s).bays = s.bays ∧
    (rewriteHeld b s).reader = s.reader ∧ (rewriteHeld b s).store = s.store ∧
    (rewriteHeld b s).channels = s.channels ∧ (rewriteHeld b s).ports = s.ports ∧
    (rewriteHeld b s).triggers = s.triggers ∧ (rewriteHeld b s).arbiter = s.arbiter ∧
    (rewriteHeld b s).memory = s.memory ∧ (rewriteHeld b s).status.snapshotCount = s.status.snapshotCount ∧
    (rewriteHeld b s).status.fault = s.status.fault := by
  unfold rewriteHeld; (repeat' split) <;> simp

/-- What `refuseArea` leaves as it is. -/
@[simp] theorem refuseArea_frame (s : State) :
    (refuseArea s).pending = s.pending ∧ (refuseArea s).layout = s.layout ∧ (refuseArea s).timing = s.timing ∧
    (refuseArea s).source = s.source ∧ (refuseArea s).capture = s.capture ∧ (refuseArea s).bays = s.bays ∧
    (refuseArea s).reader = s.reader ∧ (refuseArea s).store = s.store ∧ (refuseArea s).channels = s.channels ∧
    (refuseArea s).ports = s.ports ∧ (refuseArea s).triggers = s.triggers ∧ (refuseArea s).arbiter = s.arbiter ∧
    (refuseArea s).memory = s.memory ∧ (refuseArea s).status = s.status ∧
    (refuseArea s).device.state = s.device.state ∧ (refuseArea s).device.stopCount = s.device.stopCount ∧
    (refuseArea s).device.returned = s.device.returned ∧ (refuseArea s).link.areaBase = s.link.areaBase ∧
    (refuseArea s).link.noticeEnable = s.link.noticeEnable ∧ (refuseArea s).link.queue = s.link.queue ∧
    (refuseArea s).link.lastRead = s.link.lastRead := by
  simp [refuseArea]

/-- What `enterStarting` leaves as it is. -/
@[simp] theorem enterStarting_frame (area : Nat) (s : State) :
    (enterStarting area s).pending = s.pending ∧ (enterStarting area s).layout = s.layout ∧
    (enterStarting area s).timing = s.timing ∧ (enterStarting area s).source = s.source ∧
    (enterStarting area s).capture = s.capture ∧ (enterStarting area s).bays = s.bays ∧
    (enterStarting area s).reader = s.reader ∧ (enterStarting area s).store = s.store ∧
    (enterStarting area s).channels = s.channels ∧ (enterStarting area s).ports = s.ports ∧
    (enterStarting area s).triggers = s.triggers ∧ (enterStarting area s).arbiter = s.arbiter ∧
    (enterStarting area s).memory = s.memory ∧ (enterStarting area s).device.refusal = s.device.refusal ∧
    (enterStarting area s).device.stopCount = s.device.stopCount ∧
    (enterStarting area s).link.areaBase = s.link.areaBase ∧
    (enterStarting area s).link.noticeEnable = s.link.noticeEnable ∧
    (enterStarting area s).link.queue = s.link.queue ∧ (enterStarting area s).link.lastRead = s.link.lastRead ∧
    (enterStarting area s).status.fault = s.status.fault := by
  simp [enterStarting]

/-- What `leaveStarting` leaves as it is. -/
@[simp] theorem leaveStarting_frame (s : State) :
    (leaveStarting s).pending = s.pending ∧ (leaveStarting s).layout = s.layout ∧
    (leaveStarting s).timing = s.timing ∧ (leaveStarting s).source = s.source ∧
    (leaveStarting s).capture = s.capture ∧ (leaveStarting s).bays = s.bays ∧ (leaveStarting s).reader = s.reader ∧
    (leaveStarting s).store = s.store ∧ (leaveStarting s).channels = s.channels ∧ (leaveStarting s).ports = s.ports ∧
    (leaveStarting s).triggers = s.triggers ∧ (leaveStarting s).arbiter = s.arbiter ∧
    (leaveStarting s).memory = s.memory ∧ (leaveStarting s).device.refusal = s.device.refusal ∧
    (leaveStarting s).device.stopCount = s.device.stopCount ∧
    (leaveStarting s).device.validatedArea = s.device.validatedArea ∧
    (leaveStarting s).link.areaBase = s.link.areaBase ∧ (leaveStarting s).link.noticeEnable = s.link.noticeEnable ∧
    (leaveStarting s).link.queue = s.link.queue ∧ (leaveStarting s).link.lastRead = s.link.lastRead ∧
    (leaveStarting s).status.fault = s.status.fault := by
  simp [leaveStarting]

/-- What `refuseProfile` leaves as it is. -/
@[simp] theorem refuseProfile_frame (r : StartRefusal) (s : State) :
    (refuseProfile r s).pending = s.pending ∧ (refuseProfile r s).layout = s.layout ∧
    (refuseProfile r s).timing = s.timing ∧ (refuseProfile r s).source = s.source ∧
    (refuseProfile r s).capture = s.capture ∧ (refuseProfile r s).bays = s.bays ∧
    (refuseProfile r s).reader = s.reader ∧ (refuseProfile r s).store = s.store ∧
    (refuseProfile r s).channels = s.channels ∧ (refuseProfile r s).ports = s.ports ∧
    (refuseProfile r s).triggers = s.triggers ∧ (refuseProfile r s).arbiter = s.arbiter ∧
    (refuseProfile r s).memory = s.memory ∧ (refuseProfile r s).device.stopCount = s.device.stopCount ∧
    (refuseProfile r s).device.validatedArea = s.device.validatedArea ∧
    (refuseProfile r s).link.areaBase = s.link.areaBase ∧
    (refuseProfile r s).link.noticeEnable = s.link.noticeEnable ∧ (refuseProfile r s).link.queue = s.link.queue ∧
    (refuseProfile r s).link.lastRead = s.link.lastRead ∧ (refuseProfile r s).status.fault = s.status.fault := by
  simp [refuseProfile]

/-- What `afterRead` leaves as it is. -/
@[simp] theorem afterRead_frame (a n : Nat) (s : State) :
    (afterRead a n s).pending = s.pending ∧ (afterRead a n s).device = s.device ∧
    (afterRead a n s).layout = s.layout ∧ (afterRead a n s).timing = s.timing ∧ (afterRead a n s).source = s.source ∧
    (afterRead a n s).capture = s.capture ∧ (afterRead a n s).bays = s.bays ∧ (afterRead a n s).reader = s.reader ∧
    (afterRead a n s).store = s.store ∧ (afterRead a n s).channels = s.channels ∧ (afterRead a n s).ports = s.ports ∧
    (afterRead a n s).triggers = s.triggers ∧ (afterRead a n s).arbiter = s.arbiter ∧
    (afterRead a n s).link.areaBase = s.link.areaBase ∧ (afterRead a n s).link.noticeEnable = s.link.noticeEnable ∧
    (afterRead a n s).link.queue = s.link.queue ∧ (afterRead a n s).link.lastRead = s.link.lastRead ∧
    (afterRead a n s).status.queue = s.status.queue ∧
    (afterRead a n s).status.snapshotCount = s.status.snapshotCount ∧
    (afterRead a n s).memory.cells = s.memory.cells ∧ (afterRead a n s).memory.errors = s.memory.errors := by
  unfold afterRead; dsimp only; (repeat' split) <;> simp

/-- What `afterWrite` leaves as it is. -/
@[simp] theorem afterWrite_frame (l : List (Nat × Byte)) (s : State) :
    (afterWrite l s).pending = s.pending ∧ (afterWrite l s).device = s.device ∧ (afterWrite l s).layout = s.layout ∧
    (afterWrite l s).timing = s.timing ∧ (afterWrite l s).source = s.source ∧ (afterWrite l s).capture = s.capture ∧
    (afterWrite l s).bays = s.bays ∧ (afterWrite l s).reader = s.reader ∧ (afterWrite l s).store = s.store ∧
    (afterWrite l s).channels = s.channels ∧ (afterWrite l s).ports = s.ports ∧
    (afterWrite l s).triggers = s.triggers ∧ (afterWrite l s).arbiter = s.arbiter ∧
    (afterWrite l s).link.areaBase = s.link.areaBase ∧ (afterWrite l s).link.noticeEnable = s.link.noticeEnable ∧
    (afterWrite l s).link.queue = s.link.queue ∧ (afterWrite l s).link.lastRead = s.link.lastRead ∧
    (afterWrite l s).status.queue = s.status.queue ∧ (afterWrite l s).status.snapshotCount = s.status.snapshotCount := by
  have h : (fun s : State => (s.pending, s.device, s.layout, s.timing, s.source, s.capture, s.bays, s.reader, s.store, s.channels, s.ports, s.triggers, s.arbiter, s.link.areaBase, s.link.noticeEnable, s.link.queue, s.link.lastRead, s.status.queue, s.status.snapshotCount)) (afterWrite l s) = (fun s : State => (s.pending, s.device, s.layout, s.timing, s.source, s.capture, s.bays, s.reader, s.store, s.channels, s.ports, s.triggers, s.arbiter, s.link.areaBase, s.link.noticeEnable, s.link.queue, s.link.lastRead, s.status.queue, s.status.snapshotCount)) s := by
    unfold afterWrite; (try dsimp only)
    refine (foldl_keeps (fun s : State => (s.pending, s.device, s.layout, s.timing, s.source, s.capture, s.bays, s.reader, s.store, s.channels, s.ports, s.triggers, s.arbiter, s.link.areaBase, s.link.noticeEnable, s.link.queue, s.link.lastRead, s.status.queue, s.status.snapshotCount)) _ ?_ _ _).trans ?_ <;> first | (intro s a; (try dsimp only); (repeat' split) <;> simp) | simp
  simpa using h

/-- What `setBayState` leaves as it is. -/
@[simp] theorem setBayState_frame (b : Fin 8) (k : BayState) (s : State) :
    (setBayState b k s).pending = s.pending ∧ (setBayState b k s).device = s.device ∧
    (setBayState b k s).layout = s.layout ∧ (setBayState b k s).timing = s.timing ∧
    (setBayState b k s).source = s.source ∧ (setBayState b k s).capture = s.capture ∧
    (setBayState b k s).reader = s.reader ∧ (setBayState b k s).store = s.store ∧
    (setBayState b k s).channels = s.channels ∧ (setBayState b k s).ports = s.ports ∧
    (setBayState b k s).triggers = s.triggers ∧ (setBayState b k s).arbiter = s.arbiter ∧
    (setBayState b k s).memory = s.memory ∧ (setBayState b k s).link.areaBase = s.link.areaBase ∧
    (setBayState b k s).link.noticeEnable = s.link.noticeEnable ∧ (setBayState b k s).link.queue = s.link.queue ∧
    (setBayState b k s).link.lastRead = s.link.lastRead ∧ (setBayState b k s).bays.liveBay = s.bays.liveBay ∧
    (setBayState b k s).bays.liveTag = s.bays.liveTag ∧ (setBayState b k s).bays.unserved = s.bays.unserved ∧
    (setBayState b k s).status.snapshotCount = s.status.snapshotCount ∧
    (setBayState b k s).status.fault = s.status.fault := by
  simp [setBayState]

/-- What `releaseBay` leaves as it is. -/
@[simp] theorem releaseBay_frame (b : Fin 8) (s : State) :
    (releaseBay b s).pending = s.pending ∧ (releaseBay b s).device = s.device ∧ (releaseBay b s).layout = s.layout ∧
    (releaseBay b s).timing = s.timing ∧ (releaseBay b s).source = s.source ∧ (releaseBay b s).capture = s.capture ∧
    (releaseBay b s).reader = s.reader ∧ (releaseBay b s).store = s.store ∧ (releaseBay b s).channels = s.channels ∧
    (releaseBay b s).ports = s.ports ∧ (releaseBay b s).triggers = s.triggers ∧
    (releaseBay b s).arbiter = s.arbiter ∧ (releaseBay b s).memory = s.memory ∧
    (releaseBay b s).link.areaBase = s.link.areaBase ∧ (releaseBay b s).link.noticeEnable = s.link.noticeEnable ∧
    (releaseBay b s).link.queue = s.link.queue ∧ (releaseBay b s).link.lastRead = s.link.lastRead ∧
    (releaseBay b s).bays.liveBay = s.bays.liveBay ∧ (releaseBay b s).bays.liveTag = s.bays.liveTag ∧
    (releaseBay b s).bays.unserved = s.bays.unserved ∧
    (releaseBay b s).status.snapshotCount = s.status.snapshotCount ∧ (releaseBay b s).status.fault = s.status.fault := by
  simp [releaseBay]

/-- What `rejectBay` leaves as it is. -/
@[simp] theorem rejectBay_frame (b : Fin 8) (r : RejectReason) (i : Nat) (s : State) :
    (rejectBay b r i s).pending = s.pending ∧ (rejectBay b r i s).device = s.device ∧
    (rejectBay b r i s).layout = s.layout ∧ (rejectBay b r i s).timing = s.timing ∧
    (rejectBay b r i s).source = s.source ∧ (rejectBay b r i s).capture = s.capture ∧
    (rejectBay b r i s).reader = s.reader ∧ (rejectBay b r i s).store = s.store ∧
    (rejectBay b r i s).channels = s.channels ∧ (rejectBay b r i s).ports = s.ports ∧
    (rejectBay b r i s).triggers = s.triggers ∧ (rejectBay b r i s).arbiter = s.arbiter ∧
    (rejectBay b r i s).memory = s.memory ∧ (rejectBay b r i s).link.areaBase = s.link.areaBase ∧
    (rejectBay b r i s).link.noticeEnable = s.link.noticeEnable ∧ (rejectBay b r i s).link.queue = s.link.queue ∧
    (rejectBay b r i s).link.lastRead = s.link.lastRead ∧ (rejectBay b r i s).bays.liveBay = s.bays.liveBay ∧
    (rejectBay b r i s).bays.liveTag = s.bays.liveTag ∧ (rejectBay b r i s).bays.unserved = s.bays.unserved ∧
    (rejectBay b r i s).status.snapshotCount = s.status.snapshotCount ∧
    (rejectBay b r i s).status.fault = s.status.fault := by
  simp [rejectBay]

/-- What `verifyBay` leaves as it is. -/
@[simp] theorem verifyBay_frame (b : Fin 8) (c : CheckSummary) (n : Nat) (s : State) :
    (verifyBay b c n s).pending = s.pending ∧ (verifyBay b c n s).device = s.device ∧
    (verifyBay b c n s).layout = s.layout ∧ (verifyBay b c n s).timing = s.timing ∧
    (verifyBay b c n s).source = s.source ∧ (verifyBay b c n s).capture = s.capture ∧
    (verifyBay b c n s).reader = s.reader ∧ (verifyBay b c n s).store = s.store ∧
    (verifyBay b c n s).channels = s.channels ∧ (verifyBay b c n s).ports = s.ports ∧
    (verifyBay b c n s).triggers = s.triggers ∧ (verifyBay b c n s).arbiter = s.arbiter ∧
    (verifyBay b c n s).memory = s.memory ∧ (verifyBay b c n s).link.areaBase = s.link.areaBase ∧
    (verifyBay b c n s).link.noticeEnable = s.link.noticeEnable ∧ (verifyBay b c n s).link.queue = s.link.queue ∧
    (verifyBay b c n s).link.lastRead = s.link.lastRead ∧ (verifyBay b c n s).bays.liveBay = s.bays.liveBay ∧
    (verifyBay b c n s).bays.liveTag = s.bays.liveTag ∧ (verifyBay b c n s).bays.unserved = s.bays.unserved ∧
    (verifyBay b c n s).status.snapshotCount = s.status.snapshotCount ∧
    (verifyBay b c n s).status.fault = s.status.fault := by
  simp [verifyBay]

/-- What `takeOffer` leaves as it is. -/
@[simp] theorem takeOffer_frame (b : Fin 8) (r : BayRecord) (s : State) :
    (takeOffer b r s).pending = s.pending ∧ (takeOffer b r s).device = s.device ∧
    (takeOffer b r s).layout = s.layout ∧ (takeOffer b r s).timing = s.timing ∧ (takeOffer b r s).source = s.source ∧
    (takeOffer b r s).capture = s.capture ∧ (takeOffer b r s).reader = s.reader ∧ (takeOffer b r s).store = s.store ∧
    (takeOffer b r s).channels = s.channels ∧ (takeOffer b r s).ports = s.ports ∧
    (takeOffer b r s).triggers = s.triggers ∧ (takeOffer b r s).arbiter = s.arbiter ∧
    (takeOffer b r s).memory = s.memory ∧ (takeOffer b r s).link.areaBase = s.link.areaBase ∧
    (takeOffer b r s).link.noticeEnable = s.link.noticeEnable ∧ (takeOffer b r s).link.queue = s.link.queue ∧
    (takeOffer b r s).link.lastRead = s.link.lastRead ∧ (takeOffer b r s).bays.liveBay = s.bays.liveBay ∧
    (takeOffer b r s).bays.liveTag = s.bays.liveTag ∧ (takeOffer b r s).bays.unserved = s.bays.unserved ∧
    (takeOffer b r s).status.snapshotCount = s.status.snapshotCount ∧ (takeOffer b r s).status.fault = s.status.fault := by
  simp [takeOffer]

/-- What `deliveryTest` leaves as it is. -/
@[simp] theorem deliveryTest_frame (l : Fin 4) (s : State) :
    (deliveryTest l s).pending = s.pending ∧ (deliveryTest l s).device = s.device ∧
    (deliveryTest l s).layout = s.layout ∧ (deliveryTest l s).timing = s.timing ∧
    (deliveryTest l s).source = s.source ∧ (deliveryTest l s).capture = s.capture ∧
    (deliveryTest l s).bays = s.bays ∧ (deliveryTest l s).reader = s.reader ∧ (deliveryTest l s).store = s.store ∧
    (deliveryTest l s).channels = s.channels ∧ (deliveryTest l s).ports = s.ports ∧
    (deliveryTest l s).arbiter = s.arbiter ∧ (deliveryTest l s).memory = s.memory ∧
    (deliveryTest l s).status = s.status ∧ (deliveryTest l s).link.areaBase = s.link.areaBase ∧
    (deliveryTest l s).link.noticeEnable = s.link.noticeEnable ∧ (deliveryTest l s).link.queue = s.link.queue ∧
    (deliveryTest l s).link.lastRead = s.link.lastRead ∧ (deliveryTest l s).triggers.runMark = s.triggers.runMark := by
  unfold deliveryTest; dsimp only; (repeat' split) <;> simp

/-- What `normalise` leaves as it is. -/
@[simp] theorem normalise_frame (r : Fin 8 → BayRecord) (s : State) :
    (normalise r s).pending = s.pending ∧ (normalise r s).device = s.device ∧ (normalise r s).layout = s.layout ∧
    (normalise r s).link = s.link ∧ (normalise r s).timing = s.timing ∧ (normalise r s).source = s.source ∧
    (normalise r s).capture = s.capture ∧ (normalise r s).reader = s.reader ∧ (normalise r s).store = s.store ∧
    (normalise r s).channels = s.channels ∧ (normalise r s).ports = s.ports ∧ (normalise r s).triggers = s.triggers ∧
    (normalise r s).arbiter = s.arbiter ∧ (normalise r s).memory = s.memory ∧
    (normalise r s).bays.liveBay = s.bays.liveBay ∧ (normalise r s).bays.liveTag = s.bays.liveTag ∧
    (normalise r s).bays.unserved = s.bays.unserved ∧ (normalise r s).status.snapshotCount = s.status.snapshotCount ∧
    (normalise r s).status.fault = s.status.fault := by
  have h : (fun s : State => (s.pending, s.device, s.layout, s.link, s.timing, s.source, s.capture, s.reader, s.store, s.channels, s.ports, s.triggers, s.arbiter, s.memory, s.bays.liveBay, s.bays.liveTag, s.bays.unserved, s.status.snapshotCount, s.status.fault)) (normalise r s) = (fun s : State => (s.pending, s.device, s.layout, s.link, s.timing, s.source, s.capture, s.reader, s.store, s.channels, s.ports, s.triggers, s.arbiter, s.memory, s.bays.liveBay, s.bays.liveTag, s.bays.unserved, s.status.snapshotCount, s.status.fault)) s := by
    unfold normalise; (try dsimp only)
    refine (foldl_keeps (fun s : State => (s.pending, s.device, s.layout, s.link, s.timing, s.source, s.capture, s.reader, s.store, s.channels, s.ports, s.triggers, s.arbiter, s.memory, s.bays.liveBay, s.bays.liveTag, s.bays.unserved, s.status.snapshotCount, s.status.fault)) _ ?_ _ _).trans ?_ <;> first | (intro s a; (try dsimp only); (repeat' split) <;> simp) | simp
  simpa using h

/-- What `enterQuarantine` leaves as it is. -/
@[simp] theorem enterQuarantine_frame (c : Fin 6) (s : State) :
    (enterQuarantine c s).pending = s.pending ∧ (enterQuarantine c s).device = s.device ∧
    (enterQuarantine c s).layout = s.layout ∧ (enterQuarantine c s).timing = s.timing ∧
    (enterQuarantine c s).source = s.source ∧ (enterQuarantine c s).capture = s.capture ∧
    (enterQuarantine c s).bays = s.bays ∧ (enterQuarantine c s).reader = s.reader ∧
    (enterQuarantine c s).store = s.store ∧ (enterQuarantine c s).ports = s.ports ∧
    (enterQuarantine c s).triggers = s.triggers ∧ (enterQuarantine c s).arbiter = s.arbiter ∧
    (enterQuarantine c s).memory = s.memory ∧ (enterQuarantine c s).link.areaBase = s.link.areaBase ∧
    (enterQuarantine c s).link.noticeEnable = s.link.noticeEnable ∧ (enterQuarantine c s).link.queue = s.link.queue ∧
    (enterQuarantine c s).link.lastRead = s.link.lastRead ∧ (enterQuarantine c s).status.queue = s.status.queue ∧
    (enterQuarantine c s).status.snapshotCount = s.status.snapshotCount := by
  simp [enterQuarantine]

/-- What `latePixel` leaves as it is. -/
@[simp] theorem latePixel_frame (p c : Fin 6) (s : State) :
    (latePixel p c s).pending = s.pending ∧ (latePixel p c s).device = s.device ∧
    (latePixel p c s).layout = s.layout ∧ (latePixel p c s).link = s.link ∧ (latePixel p c s).timing = s.timing ∧
    (latePixel p c s).source = s.source ∧ (latePixel p c s).capture = s.capture ∧ (latePixel p c s).bays = s.bays ∧
    (latePixel p c s).reader = s.reader ∧ (latePixel p c s).store = s.store ∧
    (latePixel p c s).triggers = s.triggers ∧ (latePixel p c s).arbiter = s.arbiter ∧
    (latePixel p c s).memory = s.memory ∧ (latePixel p c s).status = s.status := by
  simp [latePixel]

/-- What `takeStart` leaves as it is. -/
@[simp] theorem takeStart_frame (s : State) :
    (takeStart s).pending = s.pending ∧ (takeStart s).layout = s.layout ∧ (takeStart s).timing = s.timing ∧
    (takeStart s).source = s.source ∧ (takeStart s).capture = s.capture ∧ (takeStart s).bays = s.bays ∧
    (takeStart s).reader = s.reader ∧ (takeStart s).store = s.store ∧ (takeStart s).channels = s.channels ∧
    (takeStart s).ports = s.ports ∧ (takeStart s).triggers = s.triggers ∧ (takeStart s).arbiter = s.arbiter ∧
    (takeStart s).memory = s.memory ∧ (takeStart s).device.stopCount = s.device.stopCount ∧
    (takeStart s).link.areaBase = s.link.areaBase ∧ (takeStart s).link.noticeEnable = s.link.noticeEnable ∧
    (takeStart s).link.queue = s.link.queue ∧ (takeStart s).link.lastRead = s.link.lastRead ∧
    (takeStart s).status.fault = s.status.fault := by
  unfold takeStart; (repeat' split) <;> simp

/-- What `afterControlRead` leaves as it is. -/
@[simp] theorem afterControlRead_frame (o n : Nat) (s : State) :
    (afterControlRead o n s).pending = s.pending ∧ (afterControlRead o n s).device = s.device ∧
    (afterControlRead o n s).layout = s.layout ∧ (afterControlRead o n s).timing = s.timing ∧
    (afterControlRead o n s).source = s.source ∧ (afterControlRead o n s).capture = s.capture ∧
    (afterControlRead o n s).bays = s.bays ∧ (afterControlRead o n s).reader = s.reader ∧
    (afterControlRead o n s).store = s.store ∧ (afterControlRead o n s).channels = s.channels ∧
    (afterControlRead o n s).ports = s.ports ∧ (afterControlRead o n s).triggers = s.triggers ∧
    (afterControlRead o n s).arbiter = s.arbiter ∧ (afterControlRead o n s).link.areaBase = s.link.areaBase ∧
    (afterControlRead o n s).link.noticeEnable = s.link.noticeEnable ∧
    (afterControlRead o n s).link.queue = s.link.queue ∧ (afterControlRead o n s).link.lastRead = s.link.lastRead ∧
    (afterControlRead o n s).status.queue = s.status.queue ∧
    (afterControlRead o n s).status.snapshotCount = s.status.snapshotCount ∧
    (afterControlRead o n s).memory.cells = s.memory.cells ∧ (afterControlRead o n s).memory.errors = s.memory.errors := by
  simp [afterControlRead]

/-- What `supersede` leaves as it is. -/
@[simp] theorem supersede_frame (b : Fin 8) (s : State) :
    (supersede b s).pending = s.pending ∧ (supersede b s).device = s.device ∧ (supersede b s).layout = s.layout ∧
    (supersede b s).timing = s.timing ∧ (supersede b s).source = s.source ∧ (supersede b s).capture = s.capture ∧
    (supersede b s).reader = s.reader ∧ (supersede b s).store = s.store ∧ (supersede b s).channels = s.channels ∧
    (supersede b s).ports = s.ports ∧ (supersede b s).triggers = s.triggers ∧ (supersede b s).arbiter = s.arbiter ∧
    (supersede b s).memory = s.memory ∧ (supersede b s).link.areaBase = s.link.areaBase ∧
    (supersede b s).link.noticeEnable = s.link.noticeEnable ∧ (supersede b s).link.queue = s.link.queue ∧
    (supersede b s).link.lastRead = s.link.lastRead ∧ (supersede b s).bays.liveBay = s.bays.liveBay ∧
    (supersede b s).bays.liveTag = s.bays.liveTag ∧ (supersede b s).bays.unserved = s.bays.unserved ∧
    (supersede b s).status.snapshotCount = s.status.snapshotCount ∧ (supersede b s).status.fault = s.status.fault := by
  have h : (fun s : State => (s.pending, s.device, s.layout, s.timing, s.source, s.capture, s.reader, s.store, s.channels, s.ports, s.triggers, s.arbiter, s.memory, s.link.areaBase, s.link.noticeEnable, s.link.queue, s.link.lastRead, s.bays.liveBay, s.bays.liveTag, s.bays.unserved, s.status.snapshotCount, s.status.fault)) (supersede b s) = (fun s : State => (s.pending, s.device, s.layout, s.timing, s.source, s.capture, s.reader, s.store, s.channels, s.ports, s.triggers, s.arbiter, s.memory, s.link.areaBase, s.link.noticeEnable, s.link.queue, s.link.lastRead, s.bays.liveBay, s.bays.liveTag, s.bays.unserved, s.status.snapshotCount, s.status.fault)) s := by
    unfold supersede; (try dsimp only)
    refine (foldl_keeps (fun s : State => (s.pending, s.device, s.layout, s.timing, s.source, s.capture, s.reader, s.store, s.channels, s.ports, s.triggers, s.arbiter, s.memory, s.link.areaBase, s.link.noticeEnable, s.link.queue, s.link.lastRead, s.bays.liveBay, s.bays.liveTag, s.bays.unserved, s.status.snapshotCount, s.status.fault)) _ ?_ _ _).trans ?_ <;> first | (intro s a; (try dsimp only); (repeat' split) <;> simp) | simp
  simpa using h

/-- What `startCheck` leaves as it is. -/
@[simp] theorem startCheck_frame (s : State) :
    (startCheck s).pending = s.pending ∧ (startCheck s).device = s.device ∧ (startCheck s).layout = s.layout ∧
    (startCheck s).timing = s.timing ∧ (startCheck s).source = s.source ∧ (startCheck s).capture = s.capture ∧
    (startCheck s).store = s.store ∧ (startCheck s).channels = s.channels ∧ (startCheck s).ports = s.ports ∧
    (startCheck s).triggers = s.triggers ∧ (startCheck s).arbiter = s.arbiter ∧ (startCheck s).memory = s.memory ∧
    (startCheck s).link.areaBase = s.link.areaBase ∧ (startCheck s).link.noticeEnable = s.link.noticeEnable ∧
    (startCheck s).link.queue = s.link.queue ∧ (startCheck s).link.lastRead = s.link.lastRead ∧
    (startCheck s).bays.liveBay = s.bays.liveBay ∧ (startCheck s).bays.liveTag = s.bays.liveTag ∧
    (startCheck s).bays.unserved = s.bays.unserved ∧ (startCheck s).reader.loader = s.reader.loader ∧
    (startCheck s).status.snapshotCount = s.status.snapshotCount ∧ (startCheck s).status.fault = s.status.fault := by
  unfold startCheck; (repeat' split) <;> simp

/-- What `applyLoad` leaves as it is. -/
@[simp] theorem applyLoad_frame (w : Walk) (r : WalkResult) (s : State) :
    (applyLoad w r s).pending = s.pending ∧ (applyLoad w r s).device = s.device ∧
    (applyLoad w r s).layout = s.layout ∧ (applyLoad w r s).timing = s.timing ∧ (applyLoad w r s).source = s.source ∧
    (applyLoad w r s).capture = s.capture ∧ (applyLoad w r s).reader = s.reader ∧ (applyLoad w r s).store = s.store ∧
    (applyLoad w r s).channels = s.channels ∧ (applyLoad w r s).ports = s.ports ∧
    (applyLoad w r s).triggers = s.triggers ∧ (applyLoad w r s).arbiter = s.arbiter ∧
    (applyLoad w r s).memory = s.memory ∧ (applyLoad w r s).link.areaBase = s.link.areaBase ∧
    (applyLoad w r s).link.noticeEnable = s.link.noticeEnable ∧ (applyLoad w r s).link.queue = s.link.queue ∧
    (applyLoad w r s).link.lastRead = s.link.lastRead ∧ (applyLoad w r s).bays.liveBay = s.bays.liveBay ∧
    (applyLoad w r s).bays.liveTag = s.bays.liveTag ∧ (applyLoad w r s).bays.unserved = s.bays.unserved ∧
    (applyLoad w r s).status.snapshotCount = s.status.snapshotCount ∧ (applyLoad w r s).status.fault = s.status.fault := by
  unfold applyLoad; (repeat' split) <;> simp

/-- What `retireLive` leaves as it is. -/
@[simp] theorem retireLive_frame (p : Option (Fin 8)) (s : State) :
    (retireLive p s).pending = s.pending ∧ (retireLive p s).device = s.device ∧ (retireLive p s).layout = s.layout ∧
    (retireLive p s).timing = s.timing ∧ (retireLive p s).source = s.source ∧ (retireLive p s).capture = s.capture ∧
    (retireLive p s).reader = s.reader ∧ (retireLive p s).store = s.store ∧ (retireLive p s).channels = s.channels ∧
    (retireLive p s).ports = s.ports ∧ (retireLive p s).triggers = s.triggers ∧
    (retireLive p s).arbiter = s.arbiter ∧ (retireLive p s).memory = s.memory ∧
    (retireLive p s).link.areaBase = s.link.areaBase ∧ (retireLive p s).link.noticeEnable = s.link.noticeEnable ∧
    (retireLive p s).link.queue = s.link.queue ∧ (retireLive p s).link.lastRead = s.link.lastRead ∧
    (retireLive p s).bays.liveBay = s.bays.liveBay ∧ (retireLive p s).bays.liveTag = s.bays.liveTag ∧
    (retireLive p s).bays.unserved = s.bays.unserved ∧
    (retireLive p s).status.snapshotCount = s.status.snapshotCount ∧ (retireLive p s).status.fault = s.status.fault := by
  unfold retireLive; (repeat' split) <;> simp

/-- What `scanOffer` leaves as it is. -/
@[simp] theorem scanOffer_frame (b : Fin 8) (r : BayRecord) (s : State) :
    (scanOffer b r s).pending = s.pending ∧ (scanOffer b r s).device = s.device ∧
    (scanOffer b r s).layout = s.layout ∧ (scanOffer b r s).timing = s.timing ∧ (scanOffer b r s).source = s.source ∧
    (scanOffer b r s).capture = s.capture ∧ (scanOffer b r s).reader = s.reader ∧ (scanOffer b r s).store = s.store ∧
    (scanOffer b r s).channels = s.channels ∧ (scanOffer b r s).ports = s.ports ∧
    (scanOffer b r s).triggers = s.triggers ∧ (scanOffer b r s).arbiter = s.arbiter ∧
    (scanOffer b r s).memory = s.memory ∧ (scanOffer b r s).link.areaBase = s.link.areaBase ∧
    (scanOffer b r s).link.noticeEnable = s.link.noticeEnable ∧ (scanOffer b r s).link.queue = s.link.queue ∧
    (scanOffer b r s).link.lastRead = s.link.lastRead ∧ (scanOffer b r s).bays.liveBay = s.bays.liveBay ∧
    (scanOffer b r s).bays.liveTag = s.bays.liveTag ∧ (scanOffer b r s).bays.unserved = s.bays.unserved ∧
    (scanOffer b r s).status.snapshotCount = s.status.snapshotCount ∧ (scanOffer b r s).status.fault = s.status.fault := by
  unfold scanOffer; (repeat' split) <;> simp

/-- What `withdraw` leaves as it is. -/
@[simp] theorem withdraw_frame (b : Fin 8) (s : State) :
    (withdraw b s).pending = s.pending ∧ (withdraw b s).device = s.device ∧ (withdraw b s).layout = s.layout ∧
    (withdraw b s).timing = s.timing ∧ (withdraw b s).source = s.source ∧ (withdraw b s).capture = s.capture ∧
    (withdraw b s).store = s.store ∧ (withdraw b s).channels = s.channels ∧ (withdraw b s).ports = s.ports ∧
    (withdraw b s).triggers = s.triggers ∧ (withdraw b s).arbiter = s.arbiter ∧ (withdraw b s).memory = s.memory ∧
    (withdraw b s).link.areaBase = s.link.areaBase ∧ (withdraw b s).link.noticeEnable = s.link.noticeEnable ∧
    (withdraw b s).link.queue = s.link.queue ∧ (withdraw b s).link.lastRead = s.link.lastRead ∧
    (withdraw b s).bays.unserved = s.bays.unserved ∧ (withdraw b s).status.snapshotCount = s.status.snapshotCount ∧
    (withdraw b s).status.fault = s.status.fault := by
  unfold withdraw; (repeat' split) <;> simp

/-- What `stopBay` leaves as it is. -/
@[simp] theorem stopBay_frame (b : Fin 8) (s : State) :
    (stopBay b s).pending = s.pending ∧ (stopBay b s).device = s.device ∧ (stopBay b s).layout = s.layout ∧
    (stopBay b s).timing = s.timing ∧ (stopBay b s).source = s.source ∧ (stopBay b s).capture = s.capture ∧
    (stopBay b s).reader = s.reader ∧ (stopBay b s).store = s.store ∧ (stopBay b s).channels = s.channels ∧
    (stopBay b s).ports = s.ports ∧ (stopBay b s).triggers = s.triggers ∧ (stopBay b s).arbiter = s.arbiter ∧
    (stopBay b s).memory = s.memory ∧ (stopBay b s).link.areaBase = s.link.areaBase ∧
    (stopBay b s).link.noticeEnable = s.link.noticeEnable ∧ (stopBay b s).link.queue = s.link.queue ∧
    (stopBay b s).link.lastRead = s.link.lastRead ∧ (stopBay b s).bays.liveBay = s.bays.liveBay ∧
    (stopBay b s).bays.liveTag = s.bays.liveTag ∧ (stopBay b s).bays.unserved = s.bays.unserved ∧
    (stopBay b s).status.snapshotCount = s.status.snapshotCount ∧ (stopBay b s).status.fault = s.status.fault := by
  unfold stopBay; (repeat' split) <;> simp

/-- What `endBay` leaves as it is. -/
@[simp] theorem endBay_frame (b : Fin 8) (s : State) :
    (endBay b s).pending = s.pending ∧ (endBay b s).device = s.device ∧ (endBay b s).layout = s.layout ∧
    (endBay b s).timing = s.timing ∧ (endBay b s).source = s.source ∧ (endBay b s).capture = s.capture ∧
    (endBay b s).reader = s.reader ∧ (endBay b s).store = s.store ∧ (endBay b s).channels = s.channels ∧
    (endBay b s).ports = s.ports ∧ (endBay b s).triggers = s.triggers ∧ (endBay b s).arbiter = s.arbiter ∧
    (endBay b s).memory = s.memory ∧ (endBay b s).link.areaBase = s.link.areaBase ∧
    (endBay b s).link.noticeEnable = s.link.noticeEnable ∧ (endBay b s).link.queue = s.link.queue ∧
    (endBay b s).link.lastRead = s.link.lastRead ∧ (endBay b s).bays.liveBay = s.bays.liveBay ∧
    (endBay b s).bays.liveTag = s.bays.liveTag ∧ (endBay b s).bays.unserved = s.bays.unserved ∧
    (endBay b s).status.snapshotCount = s.status.snapshotCount ∧ (endBay b s).status.fault = s.status.fault := by
  unfold endBay; (repeat' split) <;> simp

/-- What `recompute` leaves as it is. -/
@[simp] theorem recompute_frame (l : Fin 4) (s : State) :
    (recompute l s).pending = s.pending ∧ (recompute l s).device = s.device ∧ (recompute l s).layout = s.layout ∧
    (recompute l s).timing = s.timing ∧ (recompute l s).source = s.source ∧ (recompute l s).capture = s.capture ∧
    (recompute l s).bays = s.bays ∧ (recompute l s).reader = s.reader ∧ (recompute l s).store = s.store ∧
    (recompute l s).channels = s.channels ∧ (recompute l s).ports = s.ports ∧ (recompute l s).arbiter = s.arbiter ∧
    (recompute l s).memory = s.memory ∧ (recompute l s).status = s.status ∧
    (recompute l s).link.areaBase = s.link.areaBase ∧ (recompute l s).link.noticeEnable = s.link.noticeEnable ∧
    (recompute l s).link.queue = s.link.queue ∧ (recompute l s).link.lastRead = s.link.lastRead ∧
    (recompute l s).triggers.runMark = s.triggers.runMark := by
  simp [recompute]

/-- What `holdOffExpiry` leaves as it is. -/
@[simp] theorem holdOffExpiry_frame (l : Fin 4) (s : State) :
    (holdOffExpiry l s).pending = s.pending ∧ (holdOffExpiry l s).device = s.device ∧
    (holdOffExpiry l s).layout = s.layout ∧ (holdOffExpiry l s).timing = s.timing ∧
    (holdOffExpiry l s).source = s.source ∧ (holdOffExpiry l s).capture = s.capture ∧
    (holdOffExpiry l s).bays = s.bays ∧ (holdOffExpiry l s).reader = s.reader ∧ (holdOffExpiry l s).store = s.store ∧
    (holdOffExpiry l s).channels = s.channels ∧ (holdOffExpiry l s).ports = s.ports ∧
    (holdOffExpiry l s).arbiter = s.arbiter ∧ (holdOffExpiry l s).memory = s.memory ∧
    (holdOffExpiry l s).status = s.status ∧ (holdOffExpiry l s).link.areaBase = s.link.areaBase ∧
    (holdOffExpiry l s).link.noticeEnable = s.link.noticeEnable ∧ (holdOffExpiry l s).link.queue = s.link.queue ∧
    (holdOffExpiry l s).link.lastRead = s.link.lastRead ∧ (holdOffExpiry l s).triggers.runMark = s.triggers.runMark := by
  unfold holdOffExpiry; dsimp only; (repeat' split) <;> simp

/-- What `computePixel` leaves as it is. -/
@[simp] theorem computePixel_frame (c : Fin 6) (s : State) :
    (computePixel c s).pending = s.pending ∧ (computePixel c s).device = s.device ∧
    (computePixel c s).layout = s.layout ∧ (computePixel c s).timing = s.timing ∧
    (computePixel c s).source = s.source ∧ (computePixel c s).capture = s.capture ∧
    (computePixel c s).bays = s.bays ∧ (computePixel c s).reader = s.reader ∧ (computePixel c s).store = s.store ∧
    (computePixel c s).ports = s.ports ∧ (computePixel c s).triggers = s.triggers ∧
    (computePixel c s).arbiter = s.arbiter ∧ (computePixel c s).memory = s.memory ∧
    (computePixel c s).link.areaBase = s.link.areaBase ∧ (computePixel c s).link.noticeEnable = s.link.noticeEnable ∧
    (computePixel c s).link.queue = s.link.queue ∧ (computePixel c s).link.lastRead = s.link.lastRead ∧
    (computePixel c s).status.queue = s.status.queue ∧
    (computePixel c s).status.snapshotCount = s.status.snapshotCount := by
  unfold computePixel; dsimp only; (repeat' split) <;> simp

/-- What `captureBurst` leaves as it is. -/
@[simp] theorem captureBurst_frame (size : Nat) (s : State) :
    (captureBurst size s).pending = s.pending ∧ (captureBurst size s).device = s.device ∧
    (captureBurst size s).layout = s.layout ∧ (captureBurst size s).timing = s.timing ∧
    (captureBurst size s).source = s.source ∧ (captureBurst size s).bays = s.bays ∧
    (captureBurst size s).reader = s.reader ∧ (captureBurst size s).store = s.store ∧
    (captureBurst size s).channels = s.channels ∧ (captureBurst size s).ports = s.ports ∧
    (captureBurst size s).triggers = s.triggers ∧ (captureBurst size s).arbiter = s.arbiter ∧
    (captureBurst size s).link.areaBase = s.link.areaBase ∧
    (captureBurst size s).link.noticeEnable = s.link.noticeEnable ∧ (captureBurst size s).link.queue = s.link.queue ∧
    (captureBurst size s).link.lastRead = s.link.lastRead ∧ (captureBurst size s).status.queue = s.status.queue ∧
    (captureBurst size s).status.snapshotCount = s.status.snapshotCount := by
  unfold captureBurst; (repeat' split) <;> simp

/-- What `fetchBurst` leaves as it is. -/
@[simp] theorem fetchBurst_frame (size : Nat) (c : Fin 6) (s : State) :
    (fetchBurst size c s).pending = s.pending ∧ (fetchBurst size c s).device = s.device ∧
    (fetchBurst size c s).layout = s.layout ∧ (fetchBurst size c s).timing = s.timing ∧
    (fetchBurst size c s).source = s.source ∧ (fetchBurst size c s).capture = s.capture ∧
    (fetchBurst size c s).bays = s.bays ∧ (fetchBurst size c s).reader = s.reader ∧
    (fetchBurst size c s).store = s.store ∧ (fetchBurst size c s).ports = s.ports ∧
    (fetchBurst size c s).triggers = s.triggers ∧ (fetchBurst size c s).arbiter = s.arbiter ∧
    (fetchBurst size c s).link.areaBase = s.link.areaBase ∧
    (fetchBurst size c s).link.noticeEnable = s.link.noticeEnable ∧ (fetchBurst size c s).link.queue = s.link.queue ∧
    (fetchBurst size c s).link.lastRead = s.link.lastRead ∧ (fetchBurst size c s).status.queue = s.status.queue ∧
    (fetchBurst size c s).status.snapshotCount = s.status.snapshotCount ∧
    (fetchBurst size c s).memory.cells = s.memory.cells ∧ (fetchBurst size c s).memory.errors = s.memory.errors := by
  unfold fetchBurst; (repeat' split) <;> simp

/-- What `walkBurst` leaves as it is. -/
@[simp] theorem walkBurst_frame (size : Nat) (u : Reader) (w : Walk) (j : ReadJob) (s : State) :
    (walkBurst size u w j s).pending = s.pending ∧ (walkBurst size u w j s).device = s.device ∧
    (walkBurst size u w j s).layout = s.layout ∧ (walkBurst size u w j s).timing = s.timing ∧
    (walkBurst size u w j s).source = s.source ∧ (walkBurst size u w j s).capture = s.capture ∧
    (walkBurst size u w j s).bays = s.bays ∧ (walkBurst size u w j s).channels = s.channels ∧
    (walkBurst size u w j s).ports = s.ports ∧ (walkBurst size u w j s).triggers = s.triggers ∧
    (walkBurst size u w j s).arbiter = s.arbiter ∧ (walkBurst size u w j s).link.areaBase = s.link.areaBase ∧
    (walkBurst size u w j s).link.noticeEnable = s.link.noticeEnable ∧
    (walkBurst size u w j s).link.queue = s.link.queue ∧ (walkBurst size u w j s).link.lastRead = s.link.lastRead ∧
    (walkBurst size u w j s).status.queue = s.status.queue ∧
    (walkBurst size u w j s).status.snapshotCount = s.status.snapshotCount ∧
    (walkBurst size u w j s).memory.cells = s.memory.cells ∧ (walkBurst size u w j s).memory.errors = s.memory.errors := by
  simp [walkBurst]

/-- What `statusBurst` leaves as it is. -/
@[simp] theorem statusBurst_frame (s : State) :
    (statusBurst s).pending = s.pending ∧ (statusBurst s).layout = s.layout ∧ (statusBurst s).timing = s.timing ∧
    (statusBurst s).source = s.source ∧ (statusBurst s).capture = s.capture ∧ (statusBurst s).bays = s.bays ∧
    (statusBurst s).reader = s.reader ∧ (statusBurst s).store = s.store ∧ (statusBurst s).channels = s.channels ∧
    (statusBurst s).ports = s.ports ∧ (statusBurst s).triggers = s.triggers ∧ (statusBurst s).arbiter = s.arbiter ∧
    (statusBurst s).link.areaBase = s.link.areaBase ∧ (statusBurst s).link.noticeEnable = s.link.noticeEnable ∧
    (statusBurst s).link.queue = s.link.queue ∧ (statusBurst s).link.lastRead = s.link.lastRead ∧
    (statusBurst s).device.state = s.device.state ∧ (statusBurst s).device.refusal = s.device.refusal ∧
    (statusBurst s).device.stopCount = s.device.stopCount ∧
    (statusBurst s).device.validatedArea = s.device.validatedArea ∧
    (statusBurst s).status.snapshotCount = s.status.snapshotCount := by
  unfold statusBurst; (repeat' split) <;> simp

/-- What `startLoad` leaves as it is. -/
@[simp] theorem startLoad_frame (b : Fin 8) (s : State) :
    (startLoad b s).pending = s.pending ∧ (startLoad b s).device = s.device ∧ (startLoad b s).layout = s.layout ∧
    (startLoad b s).timing = s.timing ∧ (startLoad b s).source = s.source ∧ (startLoad b s).capture = s.capture ∧
    (startLoad b s).store = s.store ∧ (startLoad b s).channels = s.channels ∧ (startLoad b s).ports = s.ports ∧
    (startLoad b s).triggers = s.triggers ∧ (startLoad b s).arbiter = s.arbiter ∧ (startLoad b s).memory = s.memory ∧
    (startLoad b s).link.areaBase = s.link.areaBase ∧ (startLoad b s).link.noticeEnable = s.link.noticeEnable ∧
    (startLoad b s).link.queue = s.link.queue ∧ (startLoad b s).link.lastRead = s.link.lastRead ∧
    (startLoad b s).bays.liveBay = s.bays.liveBay ∧ (startLoad b s).bays.liveTag = s.bays.liveTag ∧
    (startLoad b s).bays.unserved = s.bays.unserved ∧ (startLoad b s).reader.checker = s.reader.checker ∧
    (startLoad b s).status.snapshotCount = s.status.snapshotCount ∧ (startLoad b s).status.fault = s.status.fault := by
  simp [startLoad]

/-- What `exchange` leaves as it is. -/
@[simp] theorem exchange_frame (s : State) :
    (exchange s).pending = s.pending ∧ (exchange s).device = s.device ∧ (exchange s).layout = s.layout ∧
    (exchange s).timing = s.timing ∧ (exchange s).source = s.source ∧ (exchange s).capture = s.capture ∧
    (exchange s).reader = s.reader ∧ (exchange s).ports = s.ports ∧ (exchange s).triggers = s.triggers ∧
    (exchange s).arbiter = s.arbiter ∧ (exchange s).memory = s.memory ∧
    (exchange s).link.areaBase = s.link.areaBase ∧ (exchange s).link.noticeEnable = s.link.noticeEnable ∧
    (exchange s).link.queue = s.link.queue ∧ (exchange s).link.lastRead = s.link.lastRead ∧
    (exchange s).bays.unserved = s.bays.unserved ∧ (exchange s).status.snapshotCount = s.status.snapshotCount ∧
    (exchange s).status.fault = s.status.fault := by
  unfold exchange; (repeat' split) <;> simp

/-- What `scanWithdraw` leaves as it is. -/
@[simp] theorem scanWithdraw_frame (b : Fin 8) (r : BayRecord) (s : State) :
    (scanWithdraw b r s).pending = s.pending ∧ (scanWithdraw b r s).device = s.device ∧
    (scanWithdraw b r s).layout = s.layout ∧ (scanWithdraw b r s).timing = s.timing ∧
    (scanWithdraw b r s).source = s.source ∧ (scanWithdraw b r s).capture = s.capture ∧
    (scanWithdraw b r s).store = s.store ∧ (scanWithdraw b r s).channels = s.channels ∧
    (scanWithdraw b r s).ports = s.ports ∧ (scanWithdraw b r s).triggers = s.triggers ∧
    (scanWithdraw b r s).arbiter = s.arbiter ∧ (scanWithdraw b r s).memory = s.memory ∧
    (scanWithdraw b r s).link.areaBase = s.link.areaBase ∧
    (scanWithdraw b r s).link.noticeEnable = s.link.noticeEnable ∧ (scanWithdraw b r s).link.queue = s.link.queue ∧
    (scanWithdraw b r s).link.lastRead = s.link.lastRead ∧ (scanWithdraw b r s).bays.unserved = s.bays.unserved ∧
    (scanWithdraw b r s).status.snapshotCount = s.status.snapshotCount ∧
    (scanWithdraw b r s).status.fault = s.status.fault := by
  unfold scanWithdraw; (repeat' split) <;> simp

/-- What `stopBays` leaves as it is. -/
@[simp] theorem stopBays_frame (s : State) :
    (stopBays s).pending = s.pending ∧ (stopBays s).device = s.device ∧ (stopBays s).layout = s.layout ∧
    (stopBays s).timing = s.timing ∧ (stopBays s).source = s.source ∧ (stopBays s).capture = s.capture ∧
    (stopBays s).store = s.store ∧ (stopBays s).channels = s.channels ∧ (stopBays s).ports = s.ports ∧
    (stopBays s).triggers = s.triggers ∧ (stopBays s).arbiter = s.arbiter ∧ (stopBays s).memory = s.memory ∧
    (stopBays s).link.areaBase = s.link.areaBase ∧ (stopBays s).link.noticeEnable = s.link.noticeEnable ∧
    (stopBays s).link.queue = s.link.queue ∧ (stopBays s).link.lastRead = s.link.lastRead ∧
    (stopBays s).bays.liveBay = s.bays.liveBay ∧ (stopBays s).bays.liveTag = s.bays.liveTag ∧
    (stopBays s).bays.unserved = s.bays.unserved ∧ (stopBays s).status.snapshotCount = s.status.snapshotCount ∧
    (stopBays s).status.fault = s.status.fault := by
  have h : (fun s : State => (s.pending, s.device, s.layout, s.timing, s.source, s.capture, s.store, s.channels, s.ports, s.triggers, s.arbiter, s.memory, s.link.areaBase, s.link.noticeEnable, s.link.queue, s.link.lastRead, s.bays.liveBay, s.bays.liveTag, s.bays.unserved, s.status.snapshotCount, s.status.fault)) (stopBays s) = (fun s : State => (s.pending, s.device, s.layout, s.timing, s.source, s.capture, s.store, s.channels, s.ports, s.triggers, s.arbiter, s.memory, s.link.areaBase, s.link.noticeEnable, s.link.queue, s.link.lastRead, s.bays.liveBay, s.bays.liveTag, s.bays.unserved, s.status.snapshotCount, s.status.fault)) s := by
    unfold stopBays; (try dsimp only)
    refine (foldl_keeps (fun s : State => (s.pending, s.device, s.layout, s.timing, s.source, s.capture, s.store, s.channels, s.ports, s.triggers, s.arbiter, s.memory, s.link.areaBase, s.link.noticeEnable, s.link.queue, s.link.lastRead, s.bays.liveBay, s.bays.liveTag, s.bays.unserved, s.status.snapshotCount, s.status.fault)) _ ?_ _ _).trans ?_ <;> first | (intro s a; (try dsimp only); (repeat' split) <;> simp) | simp
  simpa using h

/-- What `endBays` leaves as it is. -/
@[simp] theorem endBays_frame (s : State) :
    (endBays s).pending = s.pending ∧ (endBays s).device = s.device ∧ (endBays s).layout = s.layout ∧
    (endBays s).timing = s.timing ∧ (endBays s).source = s.source ∧ (endBays s).capture = s.capture ∧
    (endBays s).reader = s.reader ∧ (endBays s).channels = s.channels ∧ (endBays s).ports = s.ports ∧
    (endBays s).triggers = s.triggers ∧ (endBays s).arbiter = s.arbiter ∧ (endBays s).memory = s.memory ∧
    (endBays s).link.areaBase = s.link.areaBase ∧ (endBays s).link.noticeEnable = s.link.noticeEnable ∧
    (endBays s).link.queue = s.link.queue ∧ (endBays s).link.lastRead = s.link.lastRead ∧
    (endBays s).bays.unserved = s.bays.unserved ∧ (endBays s).status.snapshotCount = s.status.snapshotCount ∧
    (endBays s).status.fault = s.status.fault := by
  have h : (fun s : State => (s.pending, s.device, s.layout, s.timing, s.source, s.capture, s.reader, s.channels, s.ports, s.triggers, s.arbiter, s.memory, s.link.areaBase, s.link.noticeEnable, s.link.queue, s.link.lastRead, s.bays.unserved, s.status.snapshotCount, s.status.fault)) ((allOf 8).foldl (fun t b => endBay b t) s) = (fun s : State => (s.pending, s.device, s.layout, s.timing, s.source, s.capture, s.reader, s.channels, s.ports, s.triggers, s.arbiter, s.memory, s.link.areaBase, s.link.noticeEnable, s.link.queue, s.link.lastRead, s.bays.unserved, s.status.snapshotCount, s.status.fault)) s := by
    refine foldl_keeps (fun s : State => (s.pending, s.device, s.layout, s.timing, s.source, s.capture, s.reader, s.channels, s.ports, s.triggers, s.arbiter, s.memory, s.link.areaBase, s.link.noticeEnable, s.link.queue, s.link.lastRead, s.bays.unserved, s.status.snapshotCount, s.status.fault)) _ ?_ _ _; intro s a; (try dsimp only); (repeat' split) <;> simp
  simp only [Prod.mk.injEq] at h
  unfold endBays
  simp [h]

/-- What `settleAlt` leaves as it is. -/
@[simp] theorem settleAlt_frame (t : State) (s : State) :
    (settleAlt t s).pending = s.pending ∧ (settleAlt t s).device = s.device ∧ (settleAlt t s).layout = s.layout ∧
    (settleAlt t s).timing = s.timing ∧ (settleAlt t s).source = s.source ∧ (settleAlt t s).capture = s.capture ∧
    (settleAlt t s).bays = s.bays ∧ (settleAlt t s).reader = s.reader ∧ (settleAlt t s).store = s.store ∧
    (settleAlt t s).channels = s.channels ∧ (settleAlt t s).ports = s.ports ∧ (settleAlt t s).arbiter = s.arbiter ∧
    (settleAlt t s).memory = s.memory ∧ (settleAlt t s).status = s.status ∧
    (settleAlt t s).link.areaBase = s.link.areaBase ∧ (settleAlt t s).link.noticeEnable = s.link.noticeEnable ∧
    (settleAlt t s).link.queue = s.link.queue ∧ (settleAlt t s).link.lastRead = s.link.lastRead ∧
    (settleAlt t s).triggers.runMark = s.triggers.runMark := by
  have hj : ∀ (n : Nat) (u : State), (fun s : State => (s.pending, s.device, s.layout, s.timing, s.source, s.capture, s.bays, s.reader, s.store, s.channels, s.ports, s.arbiter, s.memory, s.status, s.link.areaBase, s.link.noticeEnable, s.link.queue, s.link.lastRead, s.triggers.runMark)) (joinMoment n u) = (fun s : State => (s.pending, s.device, s.layout, s.timing, s.source, s.capture, s.bays, s.reader, s.store, s.channels, s.ports, s.arbiter, s.memory, s.status, s.link.areaBase, s.link.noticeEnable, s.link.queue, s.link.lastRead, s.triggers.runMark)) u := fun n u => by simp
  have h : (fun s : State => (s.pending, s.device, s.layout, s.timing, s.source, s.capture, s.bays, s.reader, s.store, s.channels, s.ports, s.arbiter, s.memory, s.status, s.link.areaBase, s.link.noticeEnable, s.link.queue, s.link.lastRead, s.triggers.runMark)) (settleAlt t s) = (fun s : State => (s.pending, s.device, s.layout, s.timing, s.source, s.capture, s.bays, s.reader, s.store, s.channels, s.ports, s.arbiter, s.memory, s.status, s.link.areaBase, s.link.noticeEnable, s.link.queue, s.link.lastRead, s.triggers.runMark)) s := by
    unfold settleAlt
    split
    · refine (hj _ _).trans ?_
      refine foldl_keeps (fun s : State => (s.pending, s.device, s.layout, s.timing, s.source, s.capture, s.bays, s.reader, s.store, s.channels, s.ports, s.arbiter, s.memory, s.status, s.link.areaBase, s.link.noticeEnable, s.link.queue, s.link.lastRead, s.triggers.runMark)) _ ?_ _ _; intro s a; (try dsimp only); (repeat' split) <;> simp
    · rfl
  simpa using h

/-- What `filterChange` leaves as it is. -/
@[simp] theorem filterChange_frame (l : Fin 4) (s : State) :
    (filterChange l s).pending = s.pending ∧ (filterChange l s).device = s.device ∧
    (filterChange l s).layout = s.layout ∧ (filterChange l s).timing = s.timing ∧
    (filterChange l s).source = s.source ∧ (filterChange l s).capture = s.capture ∧
    (filterChange l s).bays = s.bays ∧ (filterChange l s).reader = s.reader ∧ (filterChange l s).store = s.store ∧
    (filterChange l s).channels = s.channels ∧ (filterChange l s).ports = s.ports ∧
    (filterChange l s).arbiter = s.arbiter ∧ (filterChange l s).memory = s.memory ∧
    (filterChange l s).status = s.status ∧ (filterChange l s).link.areaBase = s.link.areaBase ∧
    (filterChange l s).link.noticeEnable = s.link.noticeEnable ∧ (filterChange l s).link.queue = s.link.queue ∧
    (filterChange l s).link.lastRead = s.link.lastRead ∧ (filterChange l s).triggers.runMark = s.triggers.runMark := by
  unfold filterChange; (repeat' split) <;> simp

/-- What `latchLine` leaves as it is. -/
@[simp] theorem latchLine_frame (l : Fin 4) (u : LineSetup) (s : State) :
    (latchLine l u s).pending = s.pending ∧ (latchLine l u s).device = s.device ∧
    (latchLine l u s).layout = s.layout ∧ (latchLine l u s).timing = s.timing ∧ (latchLine l u s).source = s.source ∧
    (latchLine l u s).capture = s.capture ∧ (latchLine l u s).bays = s.bays ∧ (latchLine l u s).reader = s.reader ∧
    (latchLine l u s).store = s.store ∧ (latchLine l u s).channels = s.channels ∧ (latchLine l u s).ports = s.ports ∧
    (latchLine l u s).arbiter = s.arbiter ∧ (latchLine l u s).memory = s.memory ∧
    (latchLine l u s).status = s.status ∧ (latchLine l u s).link.areaBase = s.link.areaBase ∧
    (latchLine l u s).link.noticeEnable = s.link.noticeEnable ∧ (latchLine l u s).link.queue = s.link.queue ∧
    (latchLine l u s).link.lastRead = s.link.lastRead ∧ (latchLine l u s).triggers.runMark = s.triggers.runMark := by
  unfold latchLine; dsimp only; (repeat' split) <;> simp

/-- What `duePixel` leaves as it is. -/
@[simp] theorem duePixel_frame (p c : Fin 6) (s : State) :
    (duePixel p c s).pending = s.pending ∧ (duePixel p c s).device = s.device ∧ (duePixel p c s).layout = s.layout ∧
    (duePixel p c s).timing = s.timing ∧ (duePixel p c s).source = s.source ∧ (duePixel p c s).capture = s.capture ∧
    (duePixel p c s).bays = s.bays ∧ (duePixel p c s).reader = s.reader ∧ (duePixel p c s).store = s.store ∧
    (duePixel p c s).triggers = s.triggers ∧ (duePixel p c s).arbiter = s.arbiter ∧
    (duePixel p c s).memory = s.memory ∧ (duePixel p c s).link.areaBase = s.link.areaBase ∧
    (duePixel p c s).link.noticeEnable = s.link.noticeEnable ∧ (duePixel p c s).link.queue = s.link.queue ∧
    (duePixel p c s).link.lastRead = s.link.lastRead ∧ (duePixel p c s).status.queue = s.status.queue ∧
    (duePixel p c s).status.snapshotCount = s.status.snapshotCount := by
  unfold duePixel; (repeat' split) <;> simp

/-- What `latchControls` leaves as it is. -/
@[simp] theorem latchControls_frame (c : Fin 6) (s : State) :
    (latchControls c s).pending = s.pending ∧ (latchControls c s).device = s.device ∧
    (latchControls c s).layout = s.layout ∧ (latchControls c s).timing = s.timing ∧
    (latchControls c s).source = s.source ∧ (latchControls c s).capture = s.capture ∧
    (latchControls c s).bays = s.bays ∧ (latchControls c s).reader = s.reader ∧ (latchControls c s).store = s.store ∧
    (latchControls c s).ports = s.ports ∧ (latchControls c s).triggers = s.triggers ∧
    (latchControls c s).arbiter = s.arbiter ∧ (latchControls c s).link.areaBase = s.link.areaBase ∧
    (latchControls c s).link.noticeEnable = s.link.noticeEnable ∧ (latchControls c s).link.queue = s.link.queue ∧
    (latchControls c s).link.lastRead = s.link.lastRead ∧ (latchControls c s).status.queue = s.status.queue ∧
    (latchControls c s).status.snapshotCount = s.status.snapshotCount ∧
    (latchControls c s).memory.cells = s.memory.cells ∧ (latchControls c s).memory.errors = s.memory.errors := by
  unfold latchControls; (repeat' split) <;> simp

/-- What `acknowledgeFault` leaves as it is. -/
@[simp] theorem acknowledgeFault_frame (s : State) :
    (acknowledgeFault s).pending = s.pending ∧ (acknowledgeFault s).device = s.device ∧
    (acknowledgeFault s).layout = s.layout ∧ (acknowledgeFault s).timing = s.timing ∧
    (acknowledgeFault s).source = s.source ∧ (acknowledgeFault s).capture = s.capture ∧
    (acknowledgeFault s).bays = s.bays ∧ (acknowledgeFault s).reader = s.reader ∧
    (acknowledgeFault s).store = s.store ∧ (acknowledgeFault s).channels = s.channels ∧
    (acknowledgeFault s).ports = s.ports ∧ (acknowledgeFault s).triggers = s.triggers ∧
    (acknowledgeFault s).arbiter = s.arbiter ∧ (acknowledgeFault s).link.areaBase = s.link.areaBase ∧
    (acknowledgeFault s).link.noticeEnable = s.link.noticeEnable ∧ (acknowledgeFault s).link.queue = s.link.queue ∧
    (acknowledgeFault s).link.lastRead = s.link.lastRead ∧ (acknowledgeFault s).status.queue = s.status.queue ∧
    (acknowledgeFault s).status.snapshotCount = s.status.snapshotCount ∧
    (acknowledgeFault s).memory.cells = s.memory.cells ∧ (acknowledgeFault s).memory.errors = s.memory.errors := by
  simp [acknowledgeFault]

/-- What `captureAtFrameStart` leaves as it is. -/
@[simp] theorem captureAtFrameStart_frame (s : State) :
    (captureAtFrameStart s).pending = s.pending ∧ (captureAtFrameStart s).device = s.device ∧
    (captureAtFrameStart s).layout = s.layout ∧ (captureAtFrameStart s).timing = s.timing ∧
    (captureAtFrameStart s).source = s.source ∧ (captureAtFrameStart s).bays = s.bays ∧
    (captureAtFrameStart s).reader = s.reader ∧ (captureAtFrameStart s).store = s.store ∧
    (captureAtFrameStart s).channels = s.channels ∧ (captureAtFrameStart s).ports = s.ports ∧
    (captureAtFrameStart s).triggers = s.triggers ∧ (captureAtFrameStart s).arbiter = s.arbiter ∧
    (captureAtFrameStart s).link.areaBase = s.link.areaBase ∧
    (captureAtFrameStart s).link.noticeEnable = s.link.noticeEnable ∧
    (captureAtFrameStart s).link.queue = s.link.queue ∧ (captureAtFrameStart s).link.lastRead = s.link.lastRead ∧
    (captureAtFrameStart s).status.queue = s.status.queue ∧
    (captureAtFrameStart s).status.snapshotCount = s.status.snapshotCount ∧
    (captureAtFrameStart s).memory.cells = s.memory.cells ∧ (captureAtFrameStart s).memory.errors = s.memory.errors := by
  unfold captureAtFrameStart; (repeat' split) <;> simp

/-- What `editionBurst` leaves as it is. -/
@[simp] theorem editionBurst_frame (size : Nat) (s : State) :
    (editionBurst size s).pending = s.pending ∧ (editionBurst size s).device = s.device ∧
    (editionBurst size s).layout = s.layout ∧ (editionBurst size s).timing = s.timing ∧
    (editionBurst size s).source = s.source ∧ (editionBurst size s).capture = s.capture ∧
    (editionBurst size s).bays = s.bays ∧ (editionBurst size s).channels = s.channels ∧
    (editionBurst size s).ports = s.ports ∧ (editionBurst size s).triggers = s.triggers ∧
    (editionBurst size s).arbiter = s.arbiter ∧ (editionBurst size s).link.areaBase = s.link.areaBase ∧
    (editionBurst size s).link.noticeEnable = s.link.noticeEnable ∧ (editionBurst size s).link.queue = s.link.queue ∧
    (editionBurst size s).link.lastRead = s.link.lastRead ∧ (editionBurst size s).status.queue = s.status.queue ∧
    (editionBurst size s).status.snapshotCount = s.status.snapshotCount ∧
    (editionBurst size s).memory.cells = s.memory.cells ∧ (editionBurst size s).memory.errors = s.memory.errors := by
  unfold editionBurst; (repeat' split) <;> simp

/-- What `enterRunning` leaves as it is. -/
@[simp] theorem enterRunning_frame (now : Nat) (pins : BitVec 4) (h : Header) (l : List (StartBlock × List Byte)) (s : State) :
    (enterRunning now pins h l s).pending = s.pending ∧ (enterRunning now pins h l s).source = s.source ∧
    (enterRunning now pins h l s).reader = s.reader ∧ (enterRunning now pins h l s).store = s.store ∧
    (enterRunning now pins h l s).channels = s.channels ∧ (enterRunning now pins h l s).memory = s.memory ∧
    (enterRunning now pins h l s).link.areaBase = s.link.areaBase ∧
    (enterRunning now pins h l s).link.noticeEnable = s.link.noticeEnable ∧
    (enterRunning now pins h l s).link.queue = s.link.queue ∧
    (enterRunning now pins h l s).link.lastRead = s.link.lastRead ∧
    (enterRunning now pins h l s).bays.liveBay = s.bays.liveBay ∧
    (enterRunning now pins h l s).bays.liveTag = s.bays.liveTag ∧
    (enterRunning now pins h l s).bays.unserved = s.bays.unserved ∧
    (enterRunning now pins h l s).device.stopCount = s.device.stopCount ∧
    (enterRunning now pins h l s).device.validatedArea = s.device.validatedArea ∧
    (enterRunning now pins h l s).status.fault = s.status.fault := by
  simp [enterRunning]

/-- What `giveGo` leaves as it is. -/
@[simp] theorem giveGo_frame (b : Fin 8) (s : State) :
    (giveGo b s).pending = s.pending ∧ (giveGo b s).device = s.device ∧ (giveGo b s).layout = s.layout ∧
    (giveGo b s).timing = s.timing ∧ (giveGo b s).source = s.source ∧ (giveGo b s).capture = s.capture ∧
    (giveGo b s).store = s.store ∧ (giveGo b s).channels = s.channels ∧ (giveGo b s).ports = s.ports ∧
    (giveGo b s).triggers = s.triggers ∧ (giveGo b s).arbiter = s.arbiter ∧ (giveGo b s).memory = s.memory ∧
    (giveGo b s).link.areaBase = s.link.areaBase ∧ (giveGo b s).link.noticeEnable = s.link.noticeEnable ∧
    (giveGo b s).link.queue = s.link.queue ∧ (giveGo b s).link.lastRead = s.link.lastRead ∧
    (giveGo b s).bays.liveBay = s.bays.liveBay ∧ (giveGo b s).bays.liveTag = s.bays.liveTag ∧
    (giveGo b s).bays.unserved = s.bays.unserved ∧ (giveGo b s).reader.checker = s.reader.checker ∧
    (giveGo b s).status.snapshotCount = s.status.snapshotCount ∧ (giveGo b s).status.fault = s.status.fault := by
  unfold giveGo; (repeat' split) <;> simp

/-- What `latchSetups` leaves as it is. -/
@[simp] theorem latchSetups_frame (s : State) :
    (latchSetups s).pending = s.pending ∧ (latchSetups s).device = s.device ∧ (latchSetups s).layout = s.layout ∧
    (latchSetups s).timing = s.timing ∧ (latchSetups s).source = s.source ∧ (latchSetups s).capture = s.capture ∧
    (latchSetups s).bays = s.bays ∧ (latchSetups s).reader = s.reader ∧ (latchSetups s).store = s.store ∧
    (latchSetups s).channels = s.channels ∧ (latchSetups s).ports = s.ports ∧ (latchSetups s).arbiter = s.arbiter ∧
    (latchSetups s).link.areaBase = s.link.areaBase ∧ (latchSetups s).link.noticeEnable = s.link.noticeEnable ∧
    (latchSetups s).link.queue = s.link.queue ∧ (latchSetups s).link.lastRead = s.link.lastRead ∧
    (latchSetups s).triggers.runMark = s.triggers.runMark ∧ (latchSetups s).status.queue = s.status.queue ∧
    (latchSetups s).status.snapshotCount = s.status.snapshotCount ∧ (latchSetups s).memory.cells = s.memory.cells ∧
    (latchSetups s).memory.errors = s.memory.errors := by
  have hj : ∀ (n : Nat) (u : State), (fun s : State => (s.pending, s.device, s.layout, s.timing, s.source, s.capture, s.bays, s.reader, s.store, s.channels, s.ports, s.arbiter, s.link.areaBase, s.link.noticeEnable, s.link.queue, s.link.lastRead, s.triggers.runMark, s.status.queue, s.status.snapshotCount, s.memory.cells, s.memory.errors)) (joinMoment n u) = (fun s : State => (s.pending, s.device, s.layout, s.timing, s.source, s.capture, s.bays, s.reader, s.store, s.channels, s.ports, s.arbiter, s.link.areaBase, s.link.noticeEnable, s.link.queue, s.link.lastRead, s.triggers.runMark, s.status.queue, s.status.snapshotCount, s.memory.cells, s.memory.errors)) u := fun n u => by simp
  have h : (fun s : State => (s.pending, s.device, s.layout, s.timing, s.source, s.capture, s.bays, s.reader, s.store, s.channels, s.ports, s.arbiter, s.link.areaBase, s.link.noticeEnable, s.link.queue, s.link.lastRead, s.triggers.runMark, s.status.queue, s.status.snapshotCount, s.memory.cells, s.memory.errors)) (latchSetups s) = (fun s : State => (s.pending, s.device, s.layout, s.timing, s.source, s.capture, s.bays, s.reader, s.store, s.channels, s.ports, s.arbiter, s.link.areaBase, s.link.noticeEnable, s.link.queue, s.link.lastRead, s.triggers.runMark, s.status.queue, s.status.snapshotCount, s.memory.cells, s.memory.errors)) s := by
    unfold latchSetups; (try dsimp only)
    split
    · refine (hj _ _).trans ?_
      refine (foldl_keeps (fun s : State => (s.pending, s.device, s.layout, s.timing, s.source, s.capture, s.bays, s.reader, s.store, s.channels, s.ports, s.arbiter, s.link.areaBase, s.link.noticeEnable, s.link.queue, s.link.lastRead, s.triggers.runMark, s.status.queue, s.status.snapshotCount, s.memory.cells, s.memory.errors)) _ ?_ _ _).trans ((foldl_keeps (fun s : State => (s.pending, s.device, s.layout, s.timing, s.source, s.capture, s.bays, s.reader, s.store, s.channels, s.ports, s.arbiter, s.link.areaBase, s.link.noticeEnable, s.link.queue, s.link.lastRead, s.triggers.runMark, s.status.queue, s.status.snapshotCount, s.memory.cells, s.memory.errors)) _ ?_ _ _).trans ?_) <;> first | (intro s a; (try dsimp only); (repeat' split) <;> simp) | simp
    · rfl
  simpa using h

/-- What `followLink` leaves as it is. -/
@[simp] theorem followLink_frame (k : Option Format) (s : State) :
    (followLink k s).pending = s.pending ∧ (followLink k s).device = s.device ∧ (followLink k s).layout = s.layout ∧
    (followLink k s).timing = s.timing ∧ (followLink k s).bays = s.bays ∧ (followLink k s).reader = s.reader ∧
    (followLink k s).store = s.store ∧ (followLink k s).channels = s.channels ∧ (followLink k s).ports = s.ports ∧
    (followLink k s).arbiter = s.arbiter ∧ (followLink k s).memory = s.memory ∧ (followLink k s).status = s.status ∧
    (followLink k s).link.areaBase = s.link.areaBase ∧ (followLink k s).link.noticeEnable = s.link.noticeEnable ∧
    (followLink k s).link.queue = s.link.queue ∧ (followLink k s).link.lastRead = s.link.lastRead ∧
    (followLink k s).triggers.runMark = s.triggers.runMark := by
  simp [followLink]

/-- What `sendPixel` leaves as it is. -/
@[simp] theorem sendPixel_frame (p : Fin 6) (s : State) :
    (sendPixel p s).pending = s.pending ∧ (sendPixel p s).device = s.device ∧ (sendPixel p s).layout = s.layout ∧
    (sendPixel p s).timing = s.timing ∧ (sendPixel p s).source = s.source ∧ (sendPixel p s).capture = s.capture ∧
    (sendPixel p s).bays = s.bays ∧ (sendPixel p s).reader = s.reader ∧ (sendPixel p s).store = s.store ∧
    (sendPixel p s).triggers = s.triggers ∧ (sendPixel p s).arbiter = s.arbiter ∧ (sendPixel p s).memory = s.memory ∧
    (sendPixel p s).link.areaBase = s.link.areaBase ∧ (sendPixel p s).link.noticeEnable = s.link.noticeEnable ∧
    (sendPixel p s).link.queue = s.link.queue ∧ (sendPixel p s).link.lastRead = s.link.lastRead ∧
    (sendPixel p s).status.queue = s.status.queue ∧ (sendPixel p s).status.snapshotCount = s.status.snapshotCount := by
  unfold sendPixel; (repeat' split) <;> simp

/-- What `channelAtFrameStart` leaves as it is. -/
@[simp] theorem channelAtFrameStart_frame (c : Fin 6) (s : State) :
    (channelAtFrameStart c s).pending = s.pending ∧ (channelAtFrameStart c s).device = s.device ∧
    (channelAtFrameStart c s).layout = s.layout ∧ (channelAtFrameStart c s).timing = s.timing ∧
    (channelAtFrameStart c s).source = s.source ∧ (channelAtFrameStart c s).capture = s.capture ∧
    (channelAtFrameStart c s).bays = s.bays ∧ (channelAtFrameStart c s).reader = s.reader ∧
    (channelAtFrameStart c s).store = s.store ∧ (channelAtFrameStart c s).ports = s.ports ∧
    (channelAtFrameStart c s).triggers = s.triggers ∧ (channelAtFrameStart c s).arbiter = s.arbiter ∧
    (channelAtFrameStart c s).link.areaBase = s.link.areaBase ∧
    (channelAtFrameStart c s).link.noticeEnable = s.link.noticeEnable ∧
    (channelAtFrameStart c s).link.queue = s.link.queue ∧
    (channelAtFrameStart c s).link.lastRead = s.link.lastRead ∧
    (channelAtFrameStart c s).status.queue = s.status.queue ∧
    (channelAtFrameStart c s).status.snapshotCount = s.status.snapshotCount ∧
    (channelAtFrameStart c s).memory.cells = s.memory.cells ∧
    (channelAtFrameStart c s).memory.errors = s.memory.errors := by
  unfold channelAtFrameStart; (repeat' split) <;> simp

/-- What `changePort` leaves as it is. -/
@[simp] theorem changePort_frame (p : Fin 6) (f : Port → Port) (s : State) :
    (changePort p f s).pending = s.pending ∧ (changePort p f s).device = s.device ∧
    (changePort p f s).layout = s.layout ∧ (changePort p f s).timing = s.timing ∧
    (changePort p f s).source = s.source ∧ (changePort p f s).capture = s.capture ∧
    (changePort p f s).bays = s.bays ∧ (changePort p f s).reader = s.reader ∧ (changePort p f s).store = s.store ∧
    (changePort p f s).arbiter = s.arbiter ∧ (changePort p f s).memory = s.memory ∧
    (changePort p f s).status = s.status ∧ (changePort p f s).link.areaBase = s.link.areaBase ∧
    (changePort p f s).link.noticeEnable = s.link.noticeEnable ∧ (changePort p f s).link.queue = s.link.queue ∧
    (changePort p f s).link.lastRead = s.link.lastRead ∧ (changePort p f s).triggers.runMark = s.triggers.runMark := by
  simp [changePort]

/-- What `endStop` leaves as it is. -/
@[simp] theorem endStop_frame (s : State) :
    (endStop s).pending = s.pending ∧ (endStop s).layout = s.layout ∧ (endStop s).source = s.source ∧
    (endStop s).reader = s.reader ∧ (endStop s).triggers = s.triggers ∧ (endStop s).arbiter = s.arbiter ∧
    (endStop s).memory = s.memory ∧ (endStop s).link.areaBase = s.link.areaBase ∧
    (endStop s).link.noticeEnable = s.link.noticeEnable ∧ (endStop s).link.queue = s.link.queue ∧
    (endStop s).link.lastRead = s.link.lastRead ∧ (endStop s).bays.unserved = s.bays.unserved ∧
    (endStop s).device.refusal = s.device.refusal ∧ (endStop s).device.validatedArea = s.device.validatedArea ∧
    (endStop s).device.returned = s.device.returned ∧ (endStop s).status.snapshotCount = s.status.snapshotCount ∧
    (endStop s).status.fault = s.status.fault := by
  simp [endStop]

/-- What `enterStopping` leaves as it is. -/
@[simp] theorem enterStopping_frame (s : State) :
    (enterStopping s).pending = s.pending ∧ (enterStopping s).layout = s.layout ∧
    (enterStopping s).timing = s.timing ∧ (enterStopping s).source = s.source ∧
    (enterStopping s).capture = s.capture ∧ (enterStopping s).store = s.store ∧
    (enterStopping s).channels = s.channels ∧ (enterStopping s).ports = s.ports ∧
    (enterStopping s).arbiter = s.arbiter ∧ (enterStopping s).memory = s.memory ∧
    (enterStopping s).link.areaBase = s.link.areaBase ∧ (enterStopping s).link.noticeEnable = s.link.noticeEnable ∧
    (enterStopping s).link.queue = s.link.queue ∧ (enterStopping s).link.lastRead = s.link.lastRead ∧
    (enterStopping s).bays.liveBay = s.bays.liveBay ∧ (enterStopping s).bays.liveTag = s.bays.liveTag ∧
    (enterStopping s).bays.unserved = s.bays.unserved ∧ (enterStopping s).device.refusal = s.device.refusal ∧
    (enterStopping s).device.validatedArea = s.device.validatedArea ∧
    (enterStopping s).device.returned = s.device.returned ∧ (enterStopping s).status.fault = s.status.fault := by
  simp [enterStopping]

/-- What `goAtCheckDone` leaves as it is. -/
@[simp] theorem goAtCheckDone_frame (b : Fin 8) (s : State) :
    (goAtCheckDone b s).pending = s.pending ∧ (goAtCheckDone b s).device = s.device ∧
    (goAtCheckDone b s).layout = s.layout ∧ (goAtCheckDone b s).timing = s.timing ∧
    (goAtCheckDone b s).source = s.source ∧ (goAtCheckDone b s).capture = s.capture ∧
    (goAtCheckDone b s).store = s.store ∧ (goAtCheckDone b s).channels = s.channels ∧
    (goAtCheckDone b s).ports = s.ports ∧ (goAtCheckDone b s).triggers = s.triggers ∧
    (goAtCheckDone b s).arbiter = s.arbiter ∧ (goAtCheckDone b s).memory = s.memory ∧
    (goAtCheckDone b s).link.areaBase = s.link.areaBase ∧
    (goAtCheckDone b s).link.noticeEnable = s.link.noticeEnable ∧ (goAtCheckDone b s).link.queue = s.link.queue ∧
    (goAtCheckDone b s).link.lastRead = s.link.lastRead ∧ (goAtCheckDone b s).bays.liveBay = s.bays.liveBay ∧
    (goAtCheckDone b s).bays.liveTag = s.bays.liveTag ∧ (goAtCheckDone b s).bays.unserved = s.bays.unserved ∧
    (goAtCheckDone b s).reader.checker = s.reader.checker ∧
    (goAtCheckDone b s).status.snapshotCount = s.status.snapshotCount ∧
    (goAtCheckDone b s).status.fault = s.status.fault := by
  unfold goAtCheckDone; dsimp only; (repeat' split) <;> simp

/-- What `scanGo` leaves as it is. -/
@[simp] theorem scanGo_frame (b : Fin 8) (r : BayRecord) (s : State) :
    (scanGo b r s).pending = s.pending ∧ (scanGo b r s).device = s.device ∧ (scanGo b r s).layout = s.layout ∧
    (scanGo b r s).timing = s.timing ∧ (scanGo b r s).source = s.source ∧ (scanGo b r s).capture = s.capture ∧
    (scanGo b r s).store = s.store ∧ (scanGo b r s).channels = s.channels ∧ (scanGo b r s).ports = s.ports ∧
    (scanGo b r s).triggers = s.triggers ∧ (scanGo b r s).arbiter = s.arbiter ∧ (scanGo b r s).memory = s.memory ∧
    (scanGo b r s).link.areaBase = s.link.areaBase ∧ (scanGo b r s).link.noticeEnable = s.link.noticeEnable ∧
    (scanGo b r s).link.queue = s.link.queue ∧ (scanGo b r s).link.lastRead = s.link.lastRead ∧
    (scanGo b r s).bays.liveBay = s.bays.liveBay ∧ (scanGo b r s).bays.liveTag = s.bays.liveTag ∧
    (scanGo b r s).bays.unserved = s.bays.unserved ∧ (scanGo b r s).reader.checker = s.reader.checker ∧
    (scanGo b r s).status.snapshotCount = s.status.snapshotCount ∧ (scanGo b r s).status.fault = s.status.fault := by
  unfold scanGo; (repeat' split) <;> simp

/-- What `serveEdge` leaves as it is. -/
@[simp] theorem serveEdge_frame (e : Fin 4 × Direction) (s : State) :
    (serveEdge e s).pending = s.pending ∧ (serveEdge e s).device = s.device ∧ (serveEdge e s).layout = s.layout ∧
    (serveEdge e s).timing = s.timing ∧ (serveEdge e s).source = s.source ∧ (serveEdge e s).capture = s.capture ∧
    (serveEdge e s).store = s.store ∧ (serveEdge e s).channels = s.channels ∧ (serveEdge e s).ports = s.ports ∧
    (serveEdge e s).triggers = s.triggers ∧ (serveEdge e s).arbiter = s.arbiter ∧ (serveEdge e s).memory = s.memory ∧
    (serveEdge e s).link.areaBase = s.link.areaBase ∧ (serveEdge e s).link.noticeEnable = s.link.noticeEnable ∧
    (serveEdge e s).link.queue = s.link.queue ∧ (serveEdge e s).link.lastRead = s.link.lastRead ∧
    (serveEdge e s).bays.liveBay = s.bays.liveBay ∧ (serveEdge e s).bays.liveTag = s.bays.liveTag ∧
    (serveEdge e s).reader.checker = s.reader.checker ∧
    (serveEdge e s).status.snapshotCount = s.status.snapshotCount ∧ (serveEdge e s).status.fault = s.status.fault := by
  unfold serveEdge; (repeat' split) <;> simp

/-- What `framesBegun` leaves as it is. -/
@[simp] theorem framesBegun_frame (s : State) :
    (framesBegun s).pending = s.pending ∧ (framesBegun s).device = s.device ∧
    (framesBegun s).layout = s.layout ∧ (framesBegun s).timing = s.timing ∧
    (framesBegun s).source = s.source ∧ (framesBegun s).capture = s.capture ∧
    (framesBegun s).bays = s.bays ∧ (framesBegun s).reader = s.reader ∧
    (framesBegun s).store = s.store ∧ (framesBegun s).triggers = s.triggers ∧
    (framesBegun s).arbiter = s.arbiter ∧ (framesBegun s).link.areaBase = s.link.areaBase ∧
    (framesBegun s).link.noticeEnable = s.link.noticeEnable ∧
    (framesBegun s).link.queue = s.link.queue ∧
    (framesBegun s).link.lastRead = s.link.lastRead ∧
    (framesBegun s).status.queue = s.status.queue ∧
    (framesBegun s).status.snapshotCount = s.status.snapshotCount ∧
    (framesBegun s).memory.cells = s.memory.cells ∧
    (framesBegun s).memory.errors = s.memory.errors := by
  have h : (fun s : State => (s.pending, s.device, s.layout, s.timing, s.source, s.capture, s.bays, s.reader, s.store, s.triggers, s.arbiter, s.link.areaBase, s.link.noticeEnable, s.link.queue, s.link.lastRead, s.status.queue, s.status.snapshotCount, s.memory.cells, s.memory.errors)) ((allOf 6).foldl (fun t c => channelAtFrameStart c t) s) = (fun s : State => (s.pending, s.device, s.layout, s.timing, s.source, s.capture, s.bays, s.reader, s.store, s.triggers, s.arbiter, s.link.areaBase, s.link.noticeEnable, s.link.queue, s.link.lastRead, s.status.queue, s.status.snapshotCount, s.memory.cells, s.memory.errors)) s := by
    refine foldl_keeps (fun s : State => (s.pending, s.device, s.layout, s.timing, s.source, s.capture, s.bays, s.reader, s.store, s.triggers, s.arbiter, s.link.areaBase, s.link.noticeEnable, s.link.queue, s.link.lastRead, s.status.queue, s.status.snapshotCount, s.memory.cells, s.memory.errors)) _ ?_ _ _; intro s a; (try dsimp only); (repeat' split) <;> simp
  simp only [Prod.mk.injEq] at h
  unfold framesBegun
  simp [h]

/-- What `channelsAtFrameStart` leaves as it is. -/
@[simp] theorem channelsAtFrameStart_frame (s : State) :
    (channelsAtFrameStart s).pending = s.pending ∧ (channelsAtFrameStart s).device = s.device ∧
    (channelsAtFrameStart s).layout = s.layout ∧ (channelsAtFrameStart s).timing = s.timing ∧
    (channelsAtFrameStart s).source = s.source ∧ (channelsAtFrameStart s).capture = s.capture ∧
    (channelsAtFrameStart s).bays = s.bays ∧ (channelsAtFrameStart s).reader = s.reader ∧
    (channelsAtFrameStart s).store = s.store ∧ (channelsAtFrameStart s).triggers = s.triggers ∧
    (channelsAtFrameStart s).arbiter = s.arbiter ∧ (channelsAtFrameStart s).link.areaBase = s.link.areaBase ∧
    (channelsAtFrameStart s).link.noticeEnable = s.link.noticeEnable ∧
    (channelsAtFrameStart s).link.queue = s.link.queue ∧
    (channelsAtFrameStart s).link.lastRead = s.link.lastRead ∧
    (channelsAtFrameStart s).status.queue = s.status.queue ∧
    (channelsAtFrameStart s).status.snapshotCount = s.status.snapshotCount ∧
    (channelsAtFrameStart s).memory.cells = s.memory.cells ∧
    (channelsAtFrameStart s).memory.errors = s.memory.errors := by
  unfold channelsAtFrameStart; simp

/-- What `failAttempt` leaves as it is. -/
@[simp] theorem failAttempt_frame (p : Fin 6) (s : State) :
    (failAttempt p s).pending = s.pending ∧ (failAttempt p s).device = s.device ∧
    (failAttempt p s).layout = s.layout ∧ (failAttempt p s).timing = s.timing ∧ (failAttempt p s).source = s.source ∧
    (failAttempt p s).capture = s.capture ∧ (failAttempt p s).bays = s.bays ∧ (failAttempt p s).reader = s.reader ∧
    (failAttempt p s).store = s.store ∧ (failAttempt p s).arbiter = s.arbiter ∧ (failAttempt p s).memory = s.memory ∧
    (failAttempt p s).link.areaBase = s.link.areaBase ∧ (failAttempt p s).link.noticeEnable = s.link.noticeEnable ∧
    (failAttempt p s).link.queue = s.link.queue ∧ (failAttempt p s).link.lastRead = s.link.lastRead ∧
    (failAttempt p s).triggers.runMark = s.triggers.runMark ∧ (failAttempt p s).status.queue = s.status.queue ∧
    (failAttempt p s).status.snapshotCount = s.status.snapshotCount := by
  unfold failAttempt; (repeat' split) <;> simp

/-- What `presenceRise` leaves as it is. -/
@[simp] theorem presenceRise_frame (p : Fin 6) (s : State) :
    (presenceRise p s).pending = s.pending ∧ (presenceRise p s).device = s.device ∧
    (presenceRise p s).layout = s.layout ∧ (presenceRise p s).timing = s.timing ∧
    (presenceRise p s).source = s.source ∧ (presenceRise p s).capture = s.capture ∧
    (presenceRise p s).bays = s.bays ∧ (presenceRise p s).reader = s.reader ∧ (presenceRise p s).store = s.store ∧
    (presenceRise p s).arbiter = s.arbiter ∧ (presenceRise p s).memory = s.memory ∧
    (presenceRise p s).status = s.status ∧ (presenceRise p s).link.areaBase = s.link.areaBase ∧
    (presenceRise p s).link.noticeEnable = s.link.noticeEnable ∧ (presenceRise p s).link.queue = s.link.queue ∧
    (presenceRise p s).link.lastRead = s.link.lastRead ∧ (presenceRise p s).triggers.runMark = s.triggers.runMark := by
  unfold presenceRise; (repeat' split) <;> simp

/-- What `presenceFall` leaves as it is. -/
@[simp] theorem presenceFall_frame (p : Fin 6) (s : State) :
    (presenceFall p s).pending = s.pending ∧ (presenceFall p s).device = s.device ∧
    (presenceFall p s).layout = s.layout ∧ (presenceFall p s).timing = s.timing ∧
    (presenceFall p s).source = s.source ∧ (presenceFall p s).capture = s.capture ∧
    (presenceFall p s).bays = s.bays ∧ (presenceFall p s).reader = s.reader ∧ (presenceFall p s).store = s.store ∧
    (presenceFall p s).arbiter = s.arbiter ∧ (presenceFall p s).memory = s.memory ∧
    (presenceFall p s).status = s.status ∧ (presenceFall p s).link.areaBase = s.link.areaBase ∧
    (presenceFall p s).link.noticeEnable = s.link.noticeEnable ∧ (presenceFall p s).link.queue = s.link.queue ∧
    (presenceFall p s).link.lastRead = s.link.lastRead ∧ (presenceFall p s).triggers.runMark = s.triggers.runMark := by
  unfold presenceFall; (repeat' split) <;> simp

/-- What `retryExpiry` leaves as it is. -/
@[simp] theorem retryExpiry_frame (p : Fin 6) (s : State) :
    (retryExpiry p s).pending = s.pending ∧ (retryExpiry p s).device = s.device ∧
    (retryExpiry p s).layout = s.layout ∧ (retryExpiry p s).timing = s.timing ∧ (retryExpiry p s).source = s.source ∧
    (retryExpiry p s).capture = s.capture ∧ (retryExpiry p s).bays = s.bays ∧ (retryExpiry p s).reader = s.reader ∧
    (retryExpiry p s).store = s.store ∧ (retryExpiry p s).arbiter = s.arbiter ∧ (retryExpiry p s).memory = s.memory ∧
    (retryExpiry p s).status = s.status ∧ (retryExpiry p s).link.areaBase = s.link.areaBase ∧
    (retryExpiry p s).link.noticeEnable = s.link.noticeEnable ∧ (retryExpiry p s).link.queue = s.link.queue ∧
    (retryExpiry p s).link.lastRead = s.link.lastRead ∧ (retryExpiry p s).triggers.runMark = s.triggers.runMark := by
  unfold retryExpiry; (repeat' split) <;> simp

/-- What `takeStop` leaves as it is. -/
@[simp] theorem takeStop_frame (s : State) :
    (takeStop s).pending = s.pending ∧ (takeStop s).layout = s.layout ∧ (takeStop s).timing = s.timing ∧
    (takeStop s).source = s.source ∧ (takeStop s).capture = s.capture ∧ (takeStop s).store = s.store ∧
    (takeStop s).channels = s.channels ∧ (takeStop s).ports = s.ports ∧ (takeStop s).arbiter = s.arbiter ∧
    (takeStop s).memory = s.memory ∧ (takeStop s).link.areaBase = s.link.areaBase ∧
    (takeStop s).link.noticeEnable = s.link.noticeEnable ∧ (takeStop s).link.queue = s.link.queue ∧
    (takeStop s).link.lastRead = s.link.lastRead ∧ (takeStop s).bays.liveBay = s.bays.liveBay ∧
    (takeStop s).bays.liveTag = s.bays.liveTag ∧ (takeStop s).bays.unserved = s.bays.unserved ∧
    (takeStop s).device.refusal = s.device.refusal ∧ (takeStop s).device.validatedArea = s.device.validatedArea ∧
    (takeStop s).status.fault = s.status.fault := by
  unfold takeStop; (repeat' split) <;> simp

/-- What `applyCheck` leaves as it is. -/
@[simp] theorem applyCheck_frame (w : Walk) (r : WalkResult) (s : State) :
    (applyCheck w r s).pending = s.pending ∧ (applyCheck w r s).device = s.device ∧
    (applyCheck w r s).layout = s.layout ∧ (applyCheck w r s).timing = s.timing ∧
    (applyCheck w r s).source = s.source ∧ (applyCheck w r s).capture = s.capture ∧
    (applyCheck w r s).store = s.store ∧ (applyCheck w r s).channels = s.channels ∧
    (applyCheck w r s).ports = s.ports ∧ (applyCheck w r s).triggers = s.triggers ∧
    (applyCheck w r s).arbiter = s.arbiter ∧ (applyCheck w r s).memory = s.memory ∧
    (applyCheck w r s).link.areaBase = s.link.areaBase ∧ (applyCheck w r s).link.noticeEnable = s.link.noticeEnable ∧
    (applyCheck w r s).link.queue = s.link.queue ∧ (applyCheck w r s).link.lastRead = s.link.lastRead ∧
    (applyCheck w r s).bays.liveBay = s.bays.liveBay ∧ (applyCheck w r s).bays.liveTag = s.bays.liveTag ∧
    (applyCheck w r s).bays.unserved = s.bays.unserved ∧ (applyCheck w r s).reader.checker = s.reader.checker ∧
    (applyCheck w r s).status.snapshotCount = s.status.snapshotCount ∧
    (applyCheck w r s).status.fault = s.status.fault := by
  unfold applyCheck; (repeat' split) <;> simp

/-- What `scanBay` leaves as it is. -/
@[simp] theorem scanBay_frame (b : Fin 8) (r : BayRecord) (s : State) :
    (scanBay b r s).pending = s.pending ∧ (scanBay b r s).device = s.device ∧ (scanBay b r s).layout = s.layout ∧
    (scanBay b r s).timing = s.timing ∧ (scanBay b r s).source = s.source ∧ (scanBay b r s).capture = s.capture ∧
    (scanBay b r s).store = s.store ∧ (scanBay b r s).channels = s.channels ∧ (scanBay b r s).ports = s.ports ∧
    (scanBay b r s).triggers = s.triggers ∧ (scanBay b r s).arbiter = s.arbiter ∧ (scanBay b r s).memory = s.memory ∧
    (scanBay b r s).link.areaBase = s.link.areaBase ∧ (scanBay b r s).link.noticeEnable = s.link.noticeEnable ∧
    (scanBay b r s).link.queue = s.link.queue ∧ (scanBay b r s).link.lastRead = s.link.lastRead ∧
    (scanBay b r s).bays.unserved = s.bays.unserved ∧ (scanBay b r s).status.snapshotCount = s.status.snapshotCount ∧
    (scanBay b r s).status.fault = s.status.fault := by
  simp [scanBay]

/-- What `attemptExpiry` leaves as it is. -/
@[simp] theorem attemptExpiry_frame (p : Fin 6) (s : State) :
    (attemptExpiry p s).pending = s.pending ∧ (attemptExpiry p s).device = s.device ∧
    (attemptExpiry p s).layout = s.layout ∧ (attemptExpiry p s).timing = s.timing ∧
    (attemptExpiry p s).source = s.source ∧ (attemptExpiry p s).capture = s.capture ∧
    (attemptExpiry p s).bays = s.bays ∧ (attemptExpiry p s).reader = s.reader ∧ (attemptExpiry p s).store = s.store ∧
    (attemptExpiry p s).arbiter = s.arbiter ∧ (attemptExpiry p s).memory = s.memory ∧
    (attemptExpiry p s).link.areaBase = s.link.areaBase ∧
    (attemptExpiry p s).link.noticeEnable = s.link.noticeEnable ∧ (attemptExpiry p s).link.queue = s.link.queue ∧
    (attemptExpiry p s).link.lastRead = s.link.lastRead ∧ (attemptExpiry p s).triggers.runMark = s.triggers.runMark ∧
    (attemptExpiry p s).status.queue = s.status.queue ∧
    (attemptExpiry p s).status.snapshotCount = s.status.snapshotCount := by
  unfold attemptExpiry; (repeat' split) <;> simp

/-- What `performRegister` leaves as it is. -/
@[simp] theorem performRegister_frame (a : RegisterAccess) (s : State) :
    (performRegister a s).pending = s.pending ∧ (performRegister a s).source = s.source ∧
    (performRegister a s).link.queue = s.link.queue ∧ (performRegister a s).link.lastRead = s.link.lastRead ∧
    (performRegister a s).memory.cells = s.memory.cells ∧ (performRegister a s).memory.errors = s.memory.errors := by
  unfold performRegister; (repeat' split) <;> simp

/-- What `scan` leaves as it is. -/
@[simp] theorem scan_frame (s : State) :
    (scan s).pending = s.pending ∧ (scan s).device = s.device ∧ (scan s).layout = s.layout ∧
    (scan s).timing = s.timing ∧ (scan s).source = s.source ∧ (scan s).capture = s.capture ∧
    (scan s).store = s.store ∧ (scan s).channels = s.channels ∧ (scan s).ports = s.ports ∧
    (scan s).triggers = s.triggers ∧ (scan s).arbiter = s.arbiter ∧ (scan s).link.areaBase = s.link.areaBase ∧
    (scan s).link.noticeEnable = s.link.noticeEnable ∧ (scan s).link.queue = s.link.queue ∧
    (scan s).link.lastRead = s.link.lastRead ∧ (scan s).bays.unserved = s.bays.unserved ∧
    (scan s).memory.cells = s.memory.cells ∧ (scan s).memory.errors = s.memory.errors ∧
    (scan s).status.snapshotCount = s.status.snapshotCount := by
  have h : (fun s : State => (s.pending, s.device, s.layout, s.timing, s.source, s.capture, s.store, s.channels, s.ports, s.triggers, s.arbiter, s.link.areaBase, s.link.noticeEnable, s.link.queue, s.link.lastRead, s.bays.unserved, s.memory.cells, s.memory.errors, s.status.snapshotCount)) (scan s) = (fun s : State => (s.pending, s.device, s.layout, s.timing, s.source, s.capture, s.store, s.channels, s.ports, s.triggers, s.arbiter, s.link.areaBase, s.link.noticeEnable, s.link.queue, s.link.lastRead, s.bays.unserved, s.memory.cells, s.memory.errors, s.status.snapshotCount)) s := by
    unfold scan; (try dsimp only)
    refine (foldl_keeps (fun s : State => (s.pending, s.device, s.layout, s.timing, s.source, s.capture, s.store, s.channels, s.ports, s.triggers, s.arbiter, s.link.areaBase, s.link.noticeEnable, s.link.queue, s.link.lastRead, s.bays.unserved, s.memory.cells, s.memory.errors, s.status.snapshotCount)) _ ?_ _ _).trans ((foldl_keeps (fun s : State => (s.pending, s.device, s.layout, s.timing, s.source, s.capture, s.store, s.channels, s.ports, s.triggers, s.arbiter, s.link.areaBase, s.link.noticeEnable, s.link.queue, s.link.lastRead, s.bays.unserved, s.memory.cells, s.memory.errors, s.status.snapshotCount)) _ ?_ _ _).trans ((foldl_keeps (fun s : State => (s.pending, s.device, s.layout, s.timing, s.source, s.capture, s.store, s.channels, s.ports, s.triggers, s.arbiter, s.link.areaBase, s.link.noticeEnable, s.link.queue, s.link.lastRead, s.bays.unserved, s.memory.cells, s.memory.errors, s.status.snapshotCount)) _ ?_ _ _).trans ?_)) <;> first | (intro s a; (try dsimp only); (repeat' split) <;> simp) | simp
  simpa using h

/-- What `settleLine` leaves as it is. -/
@[simp] theorem settleLine_frame (l : Fin 4) (s : State) :
    (settleLine l s).pending = s.pending ∧ (settleLine l s).device = s.device ∧ (settleLine l s).layout = s.layout ∧
    (settleLine l s).timing = s.timing ∧ (settleLine l s).source = s.source ∧ (settleLine l s).capture = s.capture ∧
    (settleLine l s).bays = s.bays ∧ (settleLine l s).reader = s.reader ∧ (settleLine l s).store = s.store ∧
    (settleLine l s).channels = s.channels ∧ (settleLine l s).ports = s.ports ∧ (settleLine l s).arbiter = s.arbiter ∧
    (settleLine l s).memory = s.memory ∧ (settleLine l s).status = s.status ∧
    (settleLine l s).link.areaBase = s.link.areaBase ∧ (settleLine l s).link.noticeEnable = s.link.noticeEnable ∧
    (settleLine l s).link.queue = s.link.queue ∧ (settleLine l s).link.lastRead = s.link.lastRead ∧
    (settleLine l s).triggers.runMark = s.triggers.runMark := by
  simp [settleLine]

/-- What `settlePort` leaves as it is. -/
@[simp] theorem settlePort_frame (p : Fin 6) (s : State) :
    (settlePort p s).pending = s.pending ∧ (settlePort p s).device = s.device ∧ (settlePort p s).layout = s.layout ∧
    (settlePort p s).timing = s.timing ∧ (settlePort p s).source = s.source ∧ (settlePort p s).capture = s.capture ∧
    (settlePort p s).bays = s.bays ∧ (settlePort p s).reader = s.reader ∧ (settlePort p s).store = s.store ∧
    (settlePort p s).arbiter = s.arbiter ∧ (settlePort p s).memory = s.memory ∧
    (settlePort p s).link.areaBase = s.link.areaBase ∧ (settlePort p s).link.noticeEnable = s.link.noticeEnable ∧
    (settlePort p s).link.queue = s.link.queue ∧ (settlePort p s).link.lastRead = s.link.lastRead ∧
    (settlePort p s).triggers.runMark = s.triggers.runMark ∧ (settlePort p s).status.queue = s.status.queue ∧
    (settlePort p s).status.snapshotCount = s.status.snapshotCount := by
  simp [settlePort]

/-- What `settleTick` leaves as it is. -/
@[simp] theorem settleTick_frame (s : State) :
    (settleTick s).pending = s.pending ∧ (settleTick s).device = s.device ∧ (settleTick s).layout = s.layout ∧
    (settleTick s).timing = s.timing ∧ (settleTick s).source = s.source ∧ (settleTick s).capture = s.capture ∧
    (settleTick s).bays = s.bays ∧ (settleTick s).reader = s.reader ∧ (settleTick s).store = s.store ∧
    (settleTick s).arbiter = s.arbiter ∧ (settleTick s).memory = s.memory ∧
    (settleTick s).link.areaBase = s.link.areaBase ∧ (settleTick s).link.noticeEnable = s.link.noticeEnable ∧
    (settleTick s).link.queue = s.link.queue ∧ (settleTick s).link.lastRead = s.link.lastRead ∧
    (settleTick s).triggers.runMark = s.triggers.runMark ∧ (settleTick s).status.queue = s.status.queue ∧
    (settleTick s).status.snapshotCount = s.status.snapshotCount := by
  have hj : ∀ (n : Nat) (u : State), (fun s : State => (s.pending, s.device, s.layout, s.timing, s.source, s.capture, s.bays, s.reader, s.store, s.arbiter, s.memory, s.link.areaBase, s.link.noticeEnable, s.link.queue, s.link.lastRead, s.triggers.runMark, s.status.queue, s.status.snapshotCount)) (joinMoment n u) = (fun s : State => (s.pending, s.device, s.layout, s.timing, s.source, s.capture, s.bays, s.reader, s.store, s.arbiter, s.memory, s.link.areaBase, s.link.noticeEnable, s.link.queue, s.link.lastRead, s.triggers.runMark, s.status.queue, s.status.snapshotCount)) u := fun n u => by simp
  have h : (fun s : State => (s.pending, s.device, s.layout, s.timing, s.source, s.capture, s.bays, s.reader, s.store, s.arbiter, s.memory, s.link.areaBase, s.link.noticeEnable, s.link.queue, s.link.lastRead, s.triggers.runMark, s.status.queue, s.status.snapshotCount)) (settleTick s) = (fun s : State => (s.pending, s.device, s.layout, s.timing, s.source, s.capture, s.bays, s.reader, s.store, s.arbiter, s.memory, s.link.areaBase, s.link.noticeEnable, s.link.queue, s.link.lastRead, s.triggers.runMark, s.status.queue, s.status.snapshotCount)) s := by
    unfold settleTick
    refine (hj _ _).trans ?_
    refine (foldl_keeps (fun s : State => (s.pending, s.device, s.layout, s.timing, s.source, s.capture, s.bays, s.reader, s.store, s.arbiter, s.memory, s.link.areaBase, s.link.noticeEnable, s.link.queue, s.link.lastRead, s.triggers.runMark, s.status.queue, s.status.snapshotCount)) _ ?_ _ _).trans ((foldl_keeps (fun s : State => (s.pending, s.device, s.layout, s.timing, s.source, s.capture, s.bays, s.reader, s.store, s.arbiter, s.memory, s.link.areaBase, s.link.noticeEnable, s.link.queue, s.link.lastRead, s.triggers.runMark, s.status.queue, s.status.snapshotCount)) _ ?_ _ _).trans ?_) <;>
      first | (intro s a; (try dsimp only); (repeat' split) <;> simp) | simp
  simpa using h

/-- What `deliver` leaves as it is. -/
@[simp] theorem deliver_frame (a : RegisterAccess) (s : State) :
    (deliver a s).pending = s.pending ∧ (deliver a s).source = s.source ∧
    (deliver a s).link.lastRead = s.link.lastRead ∧ (deliver a s).memory.cells = s.memory.cells ∧
    (deliver a s).memory.errors = s.memory.errors := by
  unfold deliver; (repeat' split) <;> simp

/-- What `baysAtFrameStart` leaves as it is. -/
@[simp] theorem baysAtFrameStart_frame (s : State) :
    (baysAtFrameStart s).pending = s.pending ∧ (baysAtFrameStart s).device = s.device ∧
    (baysAtFrameStart s).layout = s.layout ∧ (baysAtFrameStart s).timing = s.timing ∧
    (baysAtFrameStart s).source = s.source ∧ (baysAtFrameStart s).capture = s.capture ∧
    (baysAtFrameStart s).ports = s.ports ∧ (baysAtFrameStart s).triggers = s.triggers ∧
    (baysAtFrameStart s).arbiter = s.arbiter ∧ (baysAtFrameStart s).link.areaBase = s.link.areaBase ∧
    (baysAtFrameStart s).link.noticeEnable = s.link.noticeEnable ∧ (baysAtFrameStart s).link.queue = s.link.queue ∧
    (baysAtFrameStart s).link.lastRead = s.link.lastRead ∧ (baysAtFrameStart s).bays.unserved = s.bays.unserved ∧
    (baysAtFrameStart s).memory.cells = s.memory.cells ∧ (baysAtFrameStart s).memory.errors = s.memory.errors ∧
    (baysAtFrameStart s).status.snapshotCount = s.status.snapshotCount := by
  simp [baysAtFrameStart]

/-- What `baysPart` leaves as it is. -/
@[simp] theorem baysPart_frame (s : State) :
    (baysPart s).pending = s.pending ∧ (baysPart s).device = s.device ∧ (baysPart s).layout = s.layout ∧
    (baysPart s).timing = s.timing ∧ (baysPart s).source = s.source ∧ (baysPart s).capture = s.capture ∧
    (baysPart s).ports = s.ports ∧ (baysPart s).triggers = s.triggers ∧ (baysPart s).arbiter = s.arbiter ∧
    (baysPart s).link.areaBase = s.link.areaBase ∧ (baysPart s).link.noticeEnable = s.link.noticeEnable ∧
    (baysPart s).link.queue = s.link.queue ∧ (baysPart s).link.lastRead = s.link.lastRead ∧
    (baysPart s).bays.unserved = s.bays.unserved ∧ (baysPart s).memory.cells = s.memory.cells ∧
    (baysPart s).memory.errors = s.memory.errors ∧ (baysPart s).status.snapshotCount = s.status.snapshotCount := by
  unfold baysPart; (repeat' split) <;> simp

/-- What `takeEdge` leaves as it is. -/
@[simp] theorem takeEdge_frame (l : Fin 4) (s : State) :
    (takeEdge l s).pending = s.pending ∧ (takeEdge l s).device = s.device ∧ (takeEdge l s).layout = s.layout ∧
    (takeEdge l s).timing = s.timing ∧ (takeEdge l s).source = s.source ∧ (takeEdge l s).capture = s.capture ∧
    (takeEdge l s).store = s.store ∧ (takeEdge l s).channels = s.channels ∧ (takeEdge l s).ports = s.ports ∧
    (takeEdge l s).arbiter = s.arbiter ∧ (takeEdge l s).memory = s.memory ∧
    (takeEdge l s).link.areaBase = s.link.areaBase ∧ (takeEdge l s).link.noticeEnable = s.link.noticeEnable ∧
    (takeEdge l s).link.queue = s.link.queue ∧ (takeEdge l s).link.lastRead = s.link.lastRead ∧
    (takeEdge l s).bays.liveBay = s.bays.liveBay ∧ (takeEdge l s).bays.liveTag = s.bays.liveTag ∧
    (takeEdge l s).reader.checker = s.reader.checker ∧ (takeEdge l s).status.snapshotCount = s.status.snapshotCount ∧
    (takeEdge l s).status.fault = s.status.fault ∧ (takeEdge l s).triggers.runMark = s.triggers.runMark ∧
    (takeEdge l s).triggers.lines = s.triggers.lines := by
  unfold takeEdge; (repeat' split) <;> simp

/-- What `triggersPart` leaves as it is. -/
@[simp] theorem triggersPart_frame (early : List (Fin 4)) (s : State) :
    (triggersPart early s).pending = s.pending ∧ (triggersPart early s).device = s.device ∧
    (triggersPart early s).layout = s.layout ∧ (triggersPart early s).timing = s.timing ∧
    (triggersPart early s).source = s.source ∧ (triggersPart early s).capture = s.capture ∧
    (triggersPart early s).store = s.store ∧ (triggersPart early s).channels = s.channels ∧
    (triggersPart early s).ports = s.ports ∧ (triggersPart early s).arbiter = s.arbiter ∧
    (triggersPart early s).link.areaBase = s.link.areaBase ∧
    (triggersPart early s).link.noticeEnable = s.link.noticeEnable ∧
    (triggersPart early s).link.queue = s.link.queue ∧ (triggersPart early s).link.lastRead = s.link.lastRead ∧
    (triggersPart early s).bays.liveBay = s.bays.liveBay ∧ (triggersPart early s).bays.liveTag = s.bays.liveTag ∧
    (triggersPart early s).reader.checker = s.reader.checker ∧
    (triggersPart early s).status.snapshotCount = s.status.snapshotCount ∧
    (triggersPart early s).triggers.runMark = s.triggers.runMark ∧
    (triggersPart early s).memory.cells = s.memory.cells ∧
    (triggersPart early s).memory.errors = s.memory.errors := by
  have h : (fun s : State => (s.pending, s.device, s.layout, s.timing, s.source, s.capture, s.store, s.channels, s.ports, s.arbiter, s.link.areaBase, s.link.noticeEnable, s.link.queue, s.link.lastRead, s.bays.liveBay, s.bays.liveTag, s.reader.checker, s.status.snapshotCount, s.triggers.runMark, s.memory.cells, s.memory.errors)) (triggersPart early s) = (fun s : State => (s.pending, s.device, s.layout, s.timing, s.source, s.capture, s.store, s.channels, s.ports, s.arbiter, s.link.areaBase, s.link.noticeEnable, s.link.queue, s.link.lastRead, s.bays.liveBay, s.bays.liveTag, s.reader.checker, s.status.snapshotCount, s.triggers.runMark, s.memory.cells, s.memory.errors)) s := by
    unfold triggersPart
    refine (foldl_keeps (fun s : State => (s.pending, s.device, s.layout, s.timing, s.source, s.capture, s.store, s.channels, s.ports, s.arbiter, s.link.areaBase, s.link.noticeEnable, s.link.queue, s.link.lastRead, s.bays.liveBay, s.bays.liveTag, s.reader.checker, s.status.snapshotCount, s.triggers.runMark, s.memory.cells, s.memory.errors)) _ ?_ _ _).trans ?_ <;> first | (intro s a; simp) | simp
  simpa using h

/-- What `blocksAtFrameStart` leaves as it is. -/
@[simp] theorem blocksAtFrameStart_frame (k : Bool) (early : List (Fin 4)) (s : State) :
    (blocksAtFrameStart k early s).pending = s.pending ∧ (blocksAtFrameStart k early s).layout = s.layout ∧
    (blocksAtFrameStart k early s).source = s.source ∧ (blocksAtFrameStart k early s).arbiter = s.arbiter ∧
    (blocksAtFrameStart k early s).link.areaBase = s.link.areaBase ∧
    (blocksAtFrameStart k early s).link.noticeEnable = s.link.noticeEnable ∧
    (blocksAtFrameStart k early s).link.queue = s.link.queue ∧
    (blocksAtFrameStart k early s).link.lastRead = s.link.lastRead ∧
    (blocksAtFrameStart k early s).memory.cells = s.memory.cells ∧
    (blocksAtFrameStart k early s).memory.errors = s.memory.errors ∧
    (blocksAtFrameStart k early s).device.refusal = s.device.refusal ∧
    (blocksAtFrameStart k early s).device.validatedArea = s.device.validatedArea ∧
    (blocksAtFrameStart k early s).device.returned = s.device.returned ∧
    (blocksAtFrameStart k early s).triggers.runMark = s.triggers.runMark ∧
    (blocksAtFrameStart k early s).status.snapshotCount = s.status.snapshotCount := by
  unfold blocksAtFrameStart; (repeat' split) <;> simp

/-- What `issueFrameStart` leaves as it is. -/
@[simp] theorem issueFrameStart_frame (now : Nat) (k : StartOrder) (s : State) :
    (issueFrameStart now k s).pending = s.pending ∧ (issueFrameStart now k s).layout = s.layout ∧
    (issueFrameStart now k s).source = s.source ∧ (issueFrameStart now k s).arbiter = s.arbiter ∧
    (issueFrameStart now k s).link.areaBase = s.link.areaBase ∧
    (issueFrameStart now k s).link.noticeEnable = s.link.noticeEnable ∧
    (issueFrameStart now k s).link.queue = s.link.queue ∧ (issueFrameStart now k s).link.lastRead = s.link.lastRead ∧
    (issueFrameStart now k s).memory.cells = s.memory.cells ∧
    (issueFrameStart now k s).memory.errors = s.memory.errors ∧
    (issueFrameStart now k s).device.refusal = s.device.refusal ∧
    (issueFrameStart now k s).device.validatedArea = s.device.validatedArea ∧
    (issueFrameStart now k s).device.returned = s.device.returned ∧
    (issueFrameStart now k s).triggers.runMark = s.triggers.runMark := by
  unfold issueFrameStart; (repeat' split) <;> simp

/-- What `issueIf` leaves as it is. -/
@[simp] theorem issueIf_frame (d : Bool) (now : Nat) (k : StartOrder) (s : State) :
    (issueIf d now k s).pending = s.pending ∧ (issueIf d now k s).layout = s.layout ∧
    (issueIf d now k s).source = s.source ∧ (issueIf d now k s).arbiter = s.arbiter ∧
    (issueIf d now k s).link.areaBase = s.link.areaBase ∧
    (issueIf d now k s).link.noticeEnable = s.link.noticeEnable ∧ (issueIf d now k s).link.queue = s.link.queue ∧
    (issueIf d now k s).link.lastRead = s.link.lastRead ∧ (issueIf d now k s).memory.cells = s.memory.cells ∧
    (issueIf d now k s).memory.errors = s.memory.errors ∧ (issueIf d now k s).device.refusal = s.device.refusal ∧
    (issueIf d now k s).device.validatedArea = s.device.validatedArea ∧
    (issueIf d now k s).device.returned = s.device.returned ∧
    (issueIf d now k s).triggers.runMark = s.triggers.runMark := by
  unfold issueIf; (repeat' split) <;> simp

/-- What no register access changes, performing those delivered next does not change. -/
theorem drain_keeps {β : Type} (g : State → β)
    (hq : ∀ s (v : List LinkAccess), g (s.setLink { s.link with queue := v }) = g s)
    (hp : ∀ a s, g (performRegister a s) = g s) (q : List LinkAccess) (s : State) : g (drain q s) = g s := by
  induction q generalizing s with
  | nil => simp [drain, hq]
  | cons a q ih => cases a <;> simp [drain, hq, hp, ih]

/-- What `drain` leaves as it is. -/
@[simp] theorem drain_frame (q : List LinkAccess) (s : State) :
    (drain q s).pending = s.pending ∧ (drain q s).source = s.source ∧ (drain q s).link.lastRead = s.link.lastRead ∧
    (drain q s).memory.cells = s.memory.cells ∧ (drain q s).memory.errors = s.memory.errors := by
  have h := drain_keeps (fun s : State => (s.pending, s.source, s.link.lastRead, s.memory.cells, s.memory.errors))
    (fun s v => by simp) (fun a s => by simp) q s
  simpa using h

/-- What `hostWriteBurst` leaves as it is. -/
@[simp] theorem hostWriteBurst_frame (a : Nat) (d : List Byte) (q : List LinkAccess) (s : State) :
    (hostWriteBurst a d q s).pending = s.pending ∧ (hostWriteBurst a d q s).source = s.source ∧
    (hostWriteBurst a d q s).link.lastRead = s.link.lastRead := by
  unfold hostWriteBurst; dsimp only; (repeat' split) <;> simp

/-- What `hostReadBurst` leaves as it is. -/
@[simp] theorem hostReadBurst_frame (a n : Nat) (g : List Byte) (q : List LinkAccess) (s : State) :
    (hostReadBurst a n g q s).pending = s.pending ∧ (hostReadBurst a n g q s).source = s.source ∧
    (hostReadBurst a n g q s).memory.cells = s.memory.cells ∧
    (hostReadBurst a n g q s).memory.errors = s.memory.errors := by
  unfold hostReadBurst; dsimp only; (repeat' split) <;> simp

/-- What `hostBurst` leaves as it is. -/
@[simp] theorem hostBurst_frame (s : State) :
    (hostBurst s).pending = s.pending ∧ (hostBurst s).source = s.source := by
  unfold hostBurst; (repeat' split) <;> simp

/-- What `performBurst` leaves as it is. -/
@[simp] theorem performBurst_frame (size : Nat) (r : Requester) (s : State) :
    (performBurst size r s).pending = s.pending ∧ (performBurst size r s).source = s.source := by
  unfold performBurst; (repeat' split) <;> simp

end Sys2Proof.Machine
end

