-- ==== Sys2Proof/Laws/Access.lean ====
section
/-! SUPPORT. What bursts do to frame memory and to the fault record (R171 to R173). -/

namespace Sys2Proof.Machine

/-! ## Words and bytes of a burst -/

/-- The words of a burst are those from its first byte to its last. -/
theorem Memory.mem_wordsOf (a n w : Nat) (h : 0 < n) :
    w ∈ Memory.wordsOf a n ↔ w ∈ Finset.Icc (a / 8) ((a + n - 1) / 8) := by
  simp only [Memory.wordsOf, if_neg (by omega : ¬ n = 0), List.mem_map, List.mem_range, Finset.mem_Icc]
  constructor
  · rintro ⟨i, hi, rfl⟩; omega
  · rintro ⟨h1, h2⟩; exact ⟨w - a / 8, by omega, by omega⟩

/-- The words of a burst are listed in rising order. -/
theorem Memory.wordsOf_rise (a n : Nat) : (Memory.wordsOf a n).Pairwise (· < ·) := by
  simp only [Memory.wordsOf]; split
  · simp
  · exact List.pairwise_lt_range.map _ (fun x y h => by omega)

/-- The words of a burst are listed once each. -/
theorem Memory.wordsOf_nodup (a n : Nat) : (Memory.wordsOf a n).Nodup := by
  simp only [Memory.wordsOf]; split
  · simp
  · exact List.nodup_range.map (fun x y h => by simpa using h)

/-- Of a rising list, the first that satisfies a test is the least. -/
theorem find_least (l : List Nat) (p : Nat → Bool) (hs : l.Pairwise (· < ·)) (w : Nat) (hw : w ∈ l)
    (hp : p w = true) (hm : ∀ v ∈ l, v < w → p v = false) : l.find? p = some w := by
  induction l with
  | nil => simp at hw
  | cons x l ih =>
    rw [List.pairwise_cons] at hs
    rw [List.find?_cons]
    rcases List.mem_cons.mp hw with rfl | hw'
    · simp [hp]
    · have := hs.1 w hw'
      rw [hm x (by simp) this]
      exact ih hs.2 hw' (fun v hv => hm v (by simp [hv]))

/-- A byte stored once by a list of writes reads as stored. -/
theorem Memory.read_writeAll_of_mem (l : List (Nat × Byte)) (m : Memory) (hn : (l.map Prod.fst).Nodup)
    (c : Nat × Byte) (hc : c ∈ l) (hl : c.1 < Config.frameMemoryBytes) : (m.writeAll l).read c.1 = c.2 := by
  induction l generalizing m with
  | nil => simp at hc
  | cons x l ih =>
    rw [List.map_cons, List.nodup_cons] at hn
    have : m.writeAll (x :: l) = (m.write x.1 x.2).writeAll l := rfl
    rw [this]
    rcases List.mem_cons.mp hc with rfl | hc'
    · rw [Memory.read_writeAll_of_notMem]
      · rw [Memory.read_write _ _ _ _ hl]; simp
      · intro d hd he; exact hn.1 (List.mem_map.mpr ⟨d, hd, he⟩)
    · exact ih _ hn.2 hc'

/-- The word errors after the merges of a write. -/
theorem Memory.errorAt_mergeAll (cells : List (Nat × Byte)) (l : List Nat) (m : Memory) (w : Nat) :
   (l.foldl (fun m w => (if Memory.coversWord cells w then m else m.merge w).clearError w) m).errorAt w =
     if w ∈ l then none else m.errorAt w := by
  induction l generalizing m with
  | nil => simp
  | cons x l ih =>
    rw [List.foldl_cons, ih, Memory.errorAt_clearError]
    have : (if Memory.coversWord cells x then m else m.merge x).errorAt w = m.errorAt w := by
      split <;> simp [Memory.errorAt]
    rw [this]
    by_cases h1 : w ∈ l <;> by_cases h2 : w = x <;> simp [h1, h2, eq_comm]

/-- A write leaves no error in a word it touches, and the error of every other word (R173). -/
theorem Memory.errorAt_writeBurst (m : Memory) (cells : List (Nat × Byte)) (w : Nat) :
    (m.writeBurst cells).errorAt w = if w ∈ Memory.touched cells then none else m.errorAt w := by
  have : (m.writeBurst cells).errorAt w = (m.prepare cells).errorAt w := by simp [Memory.writeBurst, Memory.errorAt]
  rw [this]; exact Memory.errorAt_mergeAll cells _ m w

/-- A byte of a word without an uncorrectable error stays through the merges of a write. -/
theorem Memory.read_mergeAll_of_sound (cells : List (Nat × Byte)) (l : List Nat) (m : Memory) (a : Nat) (he :
    m.errorAt (a / 8) ≠ some .uncorrectable) :
   (l.foldl (fun m w => (if Memory.coversWord cells w then m else m.merge w).clearError w) m).read a = m.read a := by
  induction l generalizing m with
  | nil => rfl
  | cons x l ih =>
    have h1 : ∀ w, (if Memory.coversWord cells x then m else m.merge x).errorAt w = m.errorAt w := by
      intro w; split <;> simp [Memory.errorAt]
    rw [List.foldl_cons, ih, Memory.clearError_read]
    · split
      · rfl
      · by_cases hx : a / 8 = x
        · subst hx; exact Memory.read_merge_of_sound _ _ _ he
        · exact Memory.read_merge_of_ne _ _ _ hx
    · rw [Memory.errorAt_clearError, h1]; split
      · simp
      · exact he

/-! ## The state after a burst -/

/-- Faults taken for the words of a merge leave memory. -/
theorem foldl_takeFault_memory (l : List Nat) (s : State) :
    (l.foldl (fun s a => takeFault .memory (BitVec.ofNat 32 a) s) s).memory = s.memory :=
  foldl_keeps (fun s : State => s.memory) _ (by intro s a; simp) l s

/-- Faults taken for the words of a merge leave the status writer's requests and the snapshot count. -/
theorem foldl_takeFault_status (l : List Nat) (s : State) :
    (l.foldl (fun s a => takeFault .memory (BitVec.ofNat 32 a) s) s).status.queue = s.status.queue ∧
    (l.foldl (fun s a => takeFault .memory (BitVec.ofNat 32 a) s) s).status.snapshotCount = s.status.snapshotCount :=
  ⟨foldl_keeps (fun s : State => s.status.queue) _ (by intro s a; simp [takeFault]) l s,
   foldl_keeps (fun s : State => s.status.snapshotCount) _ (by intro s a; simp [takeFault]) l s⟩

/-- The memory after a write burst. -/
theorem afterWrite_memory (l : List (Nat × Byte)) (s : State) : (afterWrite l s).memory = s.memory.writeBurst l := by
  simp [afterWrite, foldl_takeFault_memory]

/-- A write burst leaves the status writer's requests and the snapshot count. -/
theorem afterWrite_status (l : List (Nat × Byte)) (s : State) :
    (afterWrite l s).status.queue = s.status.queue ∧
    (afterWrite l s).status.snapshotCount = s.status.snapshotCount := by
  simp [afterWrite, foldl_takeFault_status]

/-- A read burst changes no byte and no word error, and adds the corrected words to the count (R171). -/
theorem afterRead_memory (a n : Nat) (s : State) :
    (afterRead a n s).memory = s.memory.countCorrected (s.memory.correctedIn (Memory.wordsOf a n)) := by
  simp only [afterRead]; split <;> simp

/-- A read burst leaves what every byte reads as. -/
theorem afterRead_read (a n : Nat) (s : State) (x : Nat) : (afterRead a n s).memory.read x = s.memory.read x := by
  rw [afterRead_memory]; rfl

/-- A read burst leaves the status writer's requests. -/
theorem afterRead_queue (a n : Nat) (s : State) : (afterRead a n s).status.queue = s.status.queue := by
  simp only [afterRead]; split <;> simp [takeFault]

/-- A read burst fails where one of its bytes lies in a word with an uncorrectable error (R172). -/
theorem readFails_iff (a n : Nat) (hn : 0 < n) (s : State) :
    readFails a n s = true ↔ ∃ x, a ≤ x ∧ x < a + n ∧ s.memory.errorAt (x / 8) = some .uncorrectable := by
  simp only [readFails, Memory.failingWord, Option.isSome_map, List.find?_isSome, decide_eq_true_eq, Memory.wordsOf]
  rw [if_neg (by omega)]
  simp only [List.mem_map, List.mem_range]
  constructor
  · rintro ⟨w, ⟨i, hi, rfl⟩, hw⟩
    refine ⟨max a (8 * (a / 8 + i)), by omega, by omega, ?_⟩
    have : max a (8 * (a / 8 + i)) / 8 = a / 8 + i := by omega
    rw [this]; exact hw
  · rintro ⟨x, h1, h2, h3⟩
    exact ⟨x / 8, ⟨x / 8 - a / 8, by omega, by omega⟩, h3⟩

end Sys2Proof.Machine
end

