-- ==== Sys2Proof/Laws/Channels.lean ====
section
/-! SUPPORT. What computing and passing a pixel does to the render channels (R2, R16, R156, R161). -/

namespace Sys2Proof.Machine

/-- The channels after one is changed. -/
theorem channels_modifyChannel (c : Fin 6) (f : Channel → Channel) (s : State) (d : Fin 6) :
    (modifyChannel c f s).channels.get d = if d = c then f (s.channels.get c) else s.channels.get d := by
  simp only [modifyChannel, State.setChannels_channels, Arr.get_modify]
  split
  · rename_i h; subst h; rfl
  · rfl

/-- The ports after one is changed. -/
theorem ports_modifyPort (p : Fin 6) (f : Port → Port) (s : State) (q : Fin 6) :
    (modifyPort p f s).ports.get q = if q = p then f (s.ports.get p) else s.ports.get q := by
  simp only [modifyPort, State.setPorts_ports, Arr.get_modify]
  split
  · rename_i h; subst h; rfl
  · rfl

/-- A row is needed just where a pixel left needs a canvas pixel of it. -/
theorem rowNeeded_iff (s : State) (c : Fin 6) (row : Nat) :
    rowNeeded s c row = true ↔
      ∃ m, (s.channels.get c).nextPixel ≤ m ∧ m < s.layout.rasterPixels ∧ ∃ p ∈ needsOf s c m, p.2 = row := by
  simp only [rowNeeded, pixelsLeft, List.any_eq_true, List.mem_map, List.mem_range, decide_eq_true_eq]
  constructor
  · rintro ⟨_, ⟨k, hk, rfl⟩, p, hp, he⟩
    exact ⟨_, by omega, by omega, p, hp, he⟩
  · rintro ⟨m, h1, h2, p, hp, he⟩
    exact ⟨m, ⟨m - (s.channels.get c).nextPixel, by omega, by omega⟩, p, hp, he⟩

/-- No row is left to read just where every row of the window has arrived whole. -/
theorem requested_eq_none (s : State) (w : List WindowRow) :
    requested s w = none ↔ ∀ r ∈ w, 4 * s.capture.wc ≤ r.got.length := by
  simp [requested, WindowRow.whole]

/-- A request leaves the window as it is or adds one row, with no byte of it. -/
theorem mem_request (s : State) (c : Fin 6) (w : List WindowRow) (r : WindowRow) (h : r ∈ request s c w) :
    r ∈ w ∨ r.got = [] := by
  simp only [request] at h
  split at h
  · rcases List.mem_append.mp h with h | h
    · exact .inl h
    · obtain ⟨row, _, rfl⟩ := List.mem_map.mp h
      exact .inr rfl
  · exact .inl h

/-- A request keeps the window within 130 rows. -/
theorem length_request_le (s : State) (c : Fin 6) (w : List WindowRow) (h : w.length ≤ Config.windowRows) :
    (request s c w).length ≤ Config.windowRows := by
  simp only [request]
  split
  · rename_i hc
    have : (rowToRequest s c w).toList.length ≤ 1 := by cases rowToRequest s c w <;> simp
    have := hc.2.2
    simp only [List.length_append, List.length_map]
    omega
  · exact h

/-- What a channel needs follows its mode, its mark, the banks, the canvas and the layout. -/
theorem needsOf_congr {s t : State} {c : Fin 6} (hl : t.layout = s.layout) (hs : t.store = s.store) (hc : t.capture = s.capture)
    (hv : (t.channels.get c).view = (s.channels.get c).view) (n : Nat) : needsOf t c n = needsOf s c n := by
  simp only [needsOf, hl, hs, hc, hv]

/-- Whether a row is needed follows what the channel needs and how far it has come. -/
theorem rowNeeded_congr {s t : State} {c : Fin 6} (hl : t.layout = s.layout) (hs : t.store = s.store)
    (hc : t.capture = s.capture) (hv : (t.channels.get c).view = (s.channels.get c).view)
    (hn : (t.channels.get c).nextPixel = (s.channels.get c).nextPixel) (row : Nat) :
    rowNeeded t c row = rowNeeded s c row := by
  simp only [rowNeeded, pixelsLeft, hl, hn, funext (needsOf_congr hl hs hc hv)]

/-- A request follows what the channel needs, how far it has come and whether it renders. -/
theorem request_congr {s t : State} {c : Fin 6} (hl : t.layout = s.layout) (hs : t.store = s.store)
    (hc : t.capture = s.capture) (hv : (t.channels.get c).view = (s.channels.get c).view)
    (hn : (t.channels.get c).nextPixel = (s.channels.get c).nextPixel)
    (hr : (t.channels.get c).rendering = (s.channels.get c).rendering) (w : List WindowRow) :
    request t c w = request s c w := by
  have h1 : requested t w = requested s w := by rw [requested, requested, hc]
  have h2 : rowToRequest t c w = rowToRequest s c w := by
    simp only [rowToRequest, rowsInOrder, hl, funext (needsOf_congr hl hs hc hv),
      funext (rowNeeded_congr hl hs hc hv hn)]
  rw [request, request, hr, h1, h2]

/-- A request changes the window of its channel alone. -/
theorem channels_requestRow (c : Fin 6) (s : State) (d : Fin 6) :
    (requestRow c s).channels.get d =
      if d = c then { s.channels.get c with window := request s c (s.channels.get c).window } else s.channels.get d := by
  rw [requestRow, channels_modifyChannel]

/-- Every channel's request changes its window. -/
theorem channels_requestRows (s : State) (c : Fin 6) :
    (requestRows s).channels.get c =
      { s.channels.get c with window := request s c (s.channels.get c).window } := by
  simp [requestRows]

/-- A pixel passed: the number goes up, a clip is counted, rows no longer needed leave the window, and a row may be
requested. -/
theorem channels_passPixel (c : Fin 6) (k : Bool) (s : State) (d : Fin 6) :
    (passPixel c k s).channels.get d =
      if d = c then
        { s.channels.get c with
          nextPixel := (s.channels.get c).nextPixel + 1
          clipRunning := saturate ((s.channels.get c).clipRunning + bit k)
          window := request (passPixel c k s) c
            ((s.channels.get c).window.filter (fun r => rowNeeded (passPixel c k s) c r.row)) }
      else s.channels.get d := by
  let u := modifyChannel c
    (fun ch =>
      { ch with
        nextPixel := ch.nextPixel + 1
        clipRunning := saturate (ch.clipRunning + bit k) }) s
  have hu : ∀ e, u.channels.get e = if e = c then
      { s.channels.get c with
        nextPixel := (s.channels.get c).nextPixel + 1
        clipRunning := saturate ((s.channels.get c).clipRunning + bit k) } else s.channels.get e :=
    fun e => channels_modifyChannel c _ s e
  have hp : ∀ e, (pruneWindow c u).channels.get e = if e = c then
      { u.channels.get c with
        window := (u.channels.get c).window.filter (fun r => rowNeeded u c r.row) } else u.channels.get e :=
    fun e => channels_modifyChannel c _ u e
  have ht : ∀ e, (passPixel c k s).channels.get e = if e = c then
      { (pruneWindow c u).channels.get c with
        window := request (pruneWindow c u) c ((pruneWindow c u).channels.get c).window }
      else (pruneWindow c u).channels.get e :=
    fun e => channels_requestRow c (pruneWindow c u) e
  have htc := ht c
  rw [if_pos rfl, hp, if_pos rfl] at htc
  have hn : (fun row => rowNeeded (passPixel c k s) c row) = fun row => rowNeeded u c row :=
    funext (fun row => rowNeeded_congr (by simp [u]) (by simp [u]) (by simp [u]) (by rw [htc]; rfl) (by rw [htc]) row)
  have hq : ∀ w, request (passPixel c k s) c w = request (pruneWindow c u) c w := fun w =>
    request_congr (by simp [u]) (by simp [u]) (by simp [u]) (by rw [htc, hp, if_pos rfl]; rfl)
      (by rw [htc, hp, if_pos rfl]) (by rw [htc, hp, if_pos rfl]) w
  by_cases h : d = c
  · subst h
    rw [if_pos rfl, hq, htc]
    have := congrFun hn
    simp only [this, hu, if_true]
  · rw [if_neg h, ht, if_neg h, hp, if_neg h, hu, if_neg h]

/-- Quarantine sets the mark of its channel alone. -/
theorem channels_enterQuarantine (c : Fin 6) (s : State) (d : Fin 6) :
    (enterQuarantine c s).channels.get d =
      if d = c then { s.channels.get c with quarantined := true } else s.channels.get d := by
  simp only [enterQuarantine]
  rw [show ∀ k d (u : State), (takeFault k d u).channels = u.channels from fun k d u => by simp]
  have : (raiseNotice .channel (modifyChannel c (fun ch => { ch with quarantined := true }) s)).channels =
    (modifyChannel c (fun ch => { ch with quarantined := true }) s).channels := by simp
  rw [this, channels_modifyChannel]

/-- A pixel computed: passed, and quarantined where a read failed parity. -/
theorem channels_computePixel (c : Fin 6) (s : State) (d : Fin 6) :
    (computePixel c s).channels.get d =
      if d = c then
        { s.channels.get c with
          nextPixel := (s.channels.get c).nextPixel + 1
          clipRunning := saturate ((s.channels.get c).clipRunning + bit (nextValue s c).clipped)
          window := request (computePixel c s) c
            ((s.channels.get c).window.filter (fun r => rowNeeded (computePixel c s) c r.row))
          quarantined := (s.channels.get c).quarantined || (nextValue s c).parityFailed }
      else s.channels.get d := by
  by_cases hp : (nextValue s c).parityFailed = true
  · have he : computePixel c s = passPixel c (nextValue s c).clipped (enterQuarantine c s) := by simp [computePixel, hp]
    rw [he, channels_passPixel]
    split
    · simp [channels_enterQuarantine, hp]
    · rw [channels_enterQuarantine, if_neg (by assumption)]
  · have he : computePixel c s = passPixel c (nextValue s c).clipped s := by simp [computePixel, hp]
    rw [he, channels_passPixel]
    split
    · simp [hp]
    · rfl

end Sys2Proof.Machine
end

