-- ==== Sys2Proof/Laws/Arbiter.lean ====
section
/-! SUPPORT. The order of the fetchers and the capture writer's runs (R122, R169). -/

namespace Sys2Proof.Machine

/-- Every channel stands in the order after the pointer. -/
theorem mem_channelsAfter (p c : Fin 6) : c ∈ channelsAfter p := by revert p c; decide

/-- The place of a channel in the order after the pointer. -/
theorem place_channelsAfter (p c : Fin 6) (i : Nat) (hi : (channelsAfter p)[i]? = some c) :
    (c.val + 5 - p.val) % 6 = i := by
  have key : ∀ (p c : Fin 6) (i : Fin 6), (channelsAfter p)[i.val]? = some c → (c.val + 5 - p.val) % 6 = i.val :=
    by decide
  have h6 : (channelsAfter p).length = 6 := by simp [channelsAfter]
  obtain ⟨h, _⟩ := List.getElem?_eq_some_iff.mp hi
  exact key p c ⟨i, by omega⟩ hi

/-- The fetcher chosen is the first that waits after the pointer. -/
theorem nextFetcher_eq (s : State) (c : Fin 6) (hc : waits s (.fetcher c) = true)
    (hm : ∀ d, waits s (.fetcher d) = true →
      (c.val + 5 - s.arbiter.pointer.val) % 6 ≤ (d.val + 5 - s.arbiter.pointer.val) % 6) :
    nextFetcher s = some c := by
  have hs : (nextFetcher s).isSome := by
    rw [nextFetcher, List.find?_isSome]; exact ⟨c, mem_channelsAfter _ _, hc⟩
  obtain ⟨d, hd⟩ := Option.isSome_iff_exists.mp hs
  rw [hd]
  rw [nextFetcher, List.find?_eq_some_iff_getElem] at hd
  obtain ⟨hw, j, hj, hje, hmin⟩ := hd
  obtain ⟨i, hi, hie⟩ := List.getElem_of_mem (mem_channelsAfter s.arbiter.pointer c)
  have hc' := place_channelsAfter s.arbiter.pointer c i (by simp [List.getElem?_eq_getElem hi, hie])
  have hd' := place_channelsAfter s.arbiter.pointer d j (by simp [List.getElem?_eq_getElem hj, hje])
  have h1 := hm d hw
  have h2 : ¬ i < j := by
    intro hlt
    have := hmin i hlt
    rw [hie] at this; simp [hc] at this
  have : i = j := by omega
  subst this
  rw [← hje, ← hie]

/-- A run of pixels stands at the head of the FIFO. -/
theorem pixelRun_prefix (slot : Fin 3) (row : Nat) : ∀ (most col : Nat) (l : List FifoPixel),
    pixelRun slot row most col l ++ l.drop (pixelRun slot row most col l).length = l
  | 0, _, l => by simp [pixelRun]
  | _+1, _, [] => by simp [pixelRun]
  | m+1, col, p :: rest => by
    simp only [pixelRun]
    split
    · simp [pixelRun_prefix slot row m (col+1) rest]
    · simp

/-- The pixels of a run lie in one row of one slot and follow one another. -/
theorem pixelRun_get (slot : Fin 3) (row : Nat) : ∀ (most col : Nat) (l : List FifoPixel) (i : Nat) (q : FifoPixel),
    (pixelRun slot row most col l)[i]? = some q → q.slot = some slot ∧ q.row = row ∧ q.column = col + i
  | 0, _, l, i, q => by simp [pixelRun]
  | _+1, _, [], i, q => by simp [pixelRun]
  | m+1, col, p :: rest, i, q => by
    simp only [pixelRun]
    split
    · rename_i h
      cases i with
      | zero => intro hq; simp at hq; subst hq; exact ⟨h.1, h.2.1, by simp [h.2.2]⟩
      | succ i =>
        intro hq; simp at hq
        have := pixelRun_get slot row m (col+1) rest i q hq
        exact ⟨this.1, this.2.1, by omega⟩
    · simp

/-- A run is no longer than asked. -/
theorem pixelRun_length_le (slot : Fin 3) (row : Nat) : ∀ (most col : Nat) (l : List FifoPixel),
    (pixelRun slot row most col l).length ≤ most
  | 0, _, l => by simp [pixelRun]
  | _+1, _, [] => by simp [pixelRun]
  | m+1, col, p :: rest => by
    simp only [pixelRun]
    split
    · simpa using pixelRun_length_le slot row m (col+1) rest
    · simp

/-- A run behind which the row's next pixel stands is as long as asked. -/
theorem pixelRun_length_eq (slot : Fin 3) (row : Nat) : ∀ (most col : Nat) (l : List FifoPixel) (q : FifoPixel),
    (l.drop (pixelRun slot row most col l).length).head? = some q → q.slot = some slot → q.row = row →
    q.column = col + (pixelRun slot row most col l).length → (pixelRun slot row most col l).length = most
  | 0, _, l, q => by simp [pixelRun]
  | _+1, _, [], q => by simp [pixelRun]
  | m+1, col, p :: rest, q => by
    simp only [pixelRun]
    split
    · simp only [List.length_cons, List.drop_succ_cons]
      intro hq hs hr hc
      have := pixelRun_length_eq slot row m (col+1) rest q hq hs hr (by omega)
      omega
    · rename_i hne
      simp only [List.length_nil, List.drop_zero, List.head?_cons, Option.some.injEq]
      intro hq hs hr hc
      subst hq
      exact absurd ⟨hs, hr, by simpa using hc⟩ hne

/-- A capture burst at a pixel's address lies in one block and ends with a word, within the size given or one word (R168,
R173). -/
theorem pixelsInBurst_bounds (size a : Nat) (h : a % 4 = 0) :
    1 ≤ pixelsInBurst size a ∧ a % 256 + 4 * pixelsInBurst size a ≤ 256 ∧ 4 * pixelsInBurst size a ≤ max 8 size ∧
      (a + 4 * pixelsInBurst size a) % 8 = 0 := by
  simp only [pixelsInBurst, Config.burstBlock]
  omega

/-- A fetcher's burst: the bytes are added to the row it reads, and the next row may be requested. -/
theorem channels_fetchBurst (s : State) (size : Nat) (c : Fin 6) (r : WindowRow) (n : Fin 3) (hr : nextRow s c = some r)
    (hn : s.capture.readingSlot = some n) :
    let address := s.capture.pixelAddress n 0 r.row + r.got.length
    let length := burstSize size address (4 * s.capture.wc - r.got.length)
    (fetchBurst size c s).channels.get c =
      { s.channels.get c with
        window := request (fetchBurst size c s) c
          (storeRow (s.channels.get c).window r (s.memory.readBytes address length)) } := by
  intro address length
  let u := modifyChannel c
    (fun ch => { ch with window := storeRow ch.window r (s.memory.readBytes address length) }) s
  have hu : u.channels.get c =
      { s.channels.get c with
        window := storeRow (s.channels.get c).window r (s.memory.readBytes address length) } := by
    simp [u, channels_modifyChannel]
  have he : fetchBurst size c s = afterRead address length (requestRow c u) := by
    simp [fetchBurst, hr, hn, u, address, length]
  have hc : (fetchBurst size c s).channels.get c =
      { u.channels.get c with window := request u c (u.channels.get c).window } := by
    rw [he]
    simp [channels_requestRow]
  rw [request_congr (s := u) (t := fetchBurst size c s) (by simp [u]) (by simp [u]) (by simp [u]) (by rw [hc]; rfl)
    (by rw [hc]) (by rw [hc]), hc, hu]

end Sys2Proof.Machine
end

