-- ==== Sys2Proof/Laws/Bays.lean ====
section
/-! SUPPORT. What the shared operations do to the shadows of the bays and to the walks. -/

namespace Sys2Proof.Machine

/-- The Bay Controller after a shadow is changed. -/
@[simp] theorem modifyBay_bays (b : Fin 8) (f : Bay → Bay) (s : State) :
    (modifyBay b f s).bays = { s.bays with bays := s.bays.bays.modify b f } := rfl
/-- The Bay Controller after a bay is changed. -/
@[simp] theorem changeBay_bays (b : Fin 8) (f : Bay → Bay) (l : List (Nat × Nat × Nat)) (s : State) :
    (changeBay b f l s).bays = { s.bays with bays := s.bays.bays.modify b f } := by
  simp [changeBay]

/-- The status writer after a bay is changed: its state and the other fields are handed over. -/
theorem status_changeBay (b : Fin 8) (f : Bay → Bay) (l : List (Nat × Nat × Nat)) (s : State) :
    (changeBay b f l s).status =
      s.statusWith (s.recordWrites b ((0x00, 1, (f (s.bays.bays.get b)).state.code) :: l)) := by
  have hr : ∀ (k : Bool) (u : State), (raiseIf k .bay u).status = u.status := fun k u => by simp
  simp only [changeBay, hr, handFields, State.recordWrites, State.statusWith]
  cases h : s.device.validatedArea <;> simp [h, modifyBay, handRequests, bayOffset]

/-- The link registers after a bay is changed: BAY is raised while the device works. -/
theorem link_changeBay (b : Fin 8) (f : Bay → Bay) (l : List (Nat × Nat × Nat)) (s : State) :
    (changeBay b f l s).link = (raiseIf s.working .bay s).link := by
  simp only [changeBay, raiseIf, raiseNotice]
  split <;> simp

/-- The shadow states after one bay is changed. -/
theorem bayState_changeBay (b f l) (s : State) (a : Fin 8) :
    (changeBay b f l s).bayState a = if a = b then (f (s.bays.bays.get b)).state else s.bayState a := by
  simp only [State.bayState, changeBay_bays, Arr.get_modify]
  split
  · rename_i h; subst h; rfl
  · rfl

/-- The shadow states after one is set. -/
theorem bayState_setBayState (b k) (s : State) (a : Fin 8) :
    (setBayState b k s).bayState a = if a = b then k else s.bayState a := by
  simp [setBayState, bayState_changeBay]
/-- The shadow states after a bay is released. -/
theorem bayState_releaseBay (b) (s : State) (a : Fin 8) :
    (releaseBay b s).bayState a = if a = b then .released else s.bayState a := by
  simp [releaseBay, bayState_changeBay]
/-- The shadow states after a bay is rejected. -/
theorem bayState_rejectBay (b r i) (s : State) (a : Fin 8) :
    (rejectBay b r i s).bayState a = if a = b then .rejected else s.bayState a := by
  simp [rejectBay, bayState_changeBay]
/-- The shadow states after a bay is verified. -/
theorem bayState_verifyBay (b r i) (s : State) (a : Fin 8) :
    (verifyBay b r i s).bayState a = if a = b then .ready else s.bayState a := by
  simp [verifyBay, bayState_changeBay]
/-- The shadow states after an offer is taken. -/
theorem bayState_takeOffer (b r) (s : State) (a : Fin 8) :
    (takeOffer b r s).bayState a = if a = b then .offered else s.bayState a := by
  simp [takeOffer, bayState_changeBay]
/-- A change of a shadow that keeps its state keeps every state. -/
theorem bayState_modifyBay (b f) (s : State) (a : Fin 8) (h : ∀ bay, (f bay).state = bay.state) :
    (modifyBay b f s).bayState a = s.bayState a := by
  simp only [State.bayState, modifyBay_bays, Arr.get_modify]
  split <;> simp [h]

/-- The shadow states follow the Bay Controller. -/
theorem bayState_of_bays {s t : State} (h : t.bays = s.bays) (a) : t.bayState a = s.bayState a := by
  simp [State.bayState, h]

/-- The shadow states follow the shadows. -/
theorem bayState_of_bays' {s t : State} (h : t.bays.bays = s.bays.bays) (a) : t.bayState a = s.bayState a := by
  simp [State.bayState, h]

/-- The shadow states after other loads give way. -/
theorem bayState_supersede (b) (s : State) (a : Fin 8) :
    (supersede b s).bayState a = if a ≠ b ∧ (s.bayState a).isLoad = true then .ready else s.bayState a := by
  have key : ∀ (l : List (Fin 8)) (t : State), l.Nodup →
      (l.foldl (fun s a => if a ≠ b ∧ (s.bayState a).isLoad then setBayState a .ready s else s) t).bayState a =
        if a ∈ l ∧ a ≠ b ∧ (t.bayState a).isLoad = true then .ready else t.bayState a := by
    intro l
    induction l with
    | nil => intro t _; simp
    | cons x l ih =>
      intro t hn
      obtain ⟨hx, hl⟩ := List.nodup_cons.mp hn
      rw [List.foldl_cons, ih _ hl]
      by_cases hax : a = x
      · subst hax
        by_cases hc : a ≠ b ∧ (t.bayState a).isLoad = true
        · simp [hx, hc, bayState_setBayState]
        · simp [hx, hc]
      · have : (if x ≠ b ∧ (t.bayState x).isLoad = true then setBayState x .ready t else t).bayState a = t.bayState a := by
          split
          · rw [bayState_setBayState, if_neg hax]
          · rfl
        rw [this]; simp [hax]
  have := key (allOf 8) s (nodup_allOf 8)
  simpa [supersede] using this

/-- The Loader after it is set. -/
@[simp] theorem setLoader_loader (w) (s : State) : (setLoader w s).reader.loader = w := rfl
/-- The Checker after it is set. -/
@[simp] theorem setChecker_checker (w) (s : State) : (setChecker w s).reader.checker = w := rfl

/-- The bay of a walk that starts. -/
theorem startWalk_bay (l b a n p) : (startWalk l b a n p).bay = b := by
  unfold startWalk; dsimp only; split <;> rfl

/-- One shadow after a bay is changed. -/
theorem shadow_changeBay (b : Fin 8) (f : Bay → Bay) (l : List (Nat × Nat × Nat)) (s : State) (a : Fin 8) :
    (changeBay b f l s).bays.bays.get a = if a = b then f (s.bays.bays.get a) else s.bays.bays.get a := by
  simp only [changeBay_bays, Arr.get_modify]

/-- One shadow after a shadow is changed. -/
theorem shadow_modifyBay (b : Fin 8) (f : Bay → Bay) (s : State) (a : Fin 8) :
    (modifyBay b f s).bays.bays.get a = if a = b then f (s.bays.bays.get a) else s.bays.bays.get a := by
  simp only [modifyBay_bays, Arr.get_modify]

/-- What entry to STOPPING makes of a shadow (R95). -/
def stoppedShadow (bay : Bay) : Bay :=
  { bay with
    goPending := false
    state := match bay.state with
      | .checking => .offered
      | .loading => .ready
      | .staged => .ready
      | other => other }

/-- The shadows after entry to STOPPING. -/
theorem shadow_stopBays (s : State) (a : Fin 8) :
    (stopBays s).bays.bays.get a = stoppedShadow (s.bays.bays.get a) := by
  have := foldl_allOf_get (fun a (t : State) => t.bays.bays.get a) (fun t b => stopBay b t) (fun _ => stoppedShadow)
    (by
      intro t b a
      by_cases e : a = b
      · subst e
        simp only [stopBay, State.bayState, stoppedShadow, if_true]
        split <;> rename_i h <;> simp [setBayState, h]
      · simp only [stopBay]
        split <;> simp [setBayState, Arr.get_modify, e])
    (setLoader none (setChecker none s)) a
  simpa [stopBays] using this

/-- What the end of a STOP makes of a shadow (R96). -/
def endedShadow (bay : Bay) : Bay :=
  if bay.state = .ready ∨ bay.state = .live then { bay with state := .released, goPending := false, summary := none }
  else bay

/-- The shadows after the end of a STOP. -/
theorem shadow_endBays (s : State) (a : Fin 8) :
    (endBays s).bays.bays.get a = endedShadow (s.bays.bays.get a) := by
  have := foldl_allOf_get (fun a (t : State) => t.bays.bays.get a) (fun t b => endBay b t) (fun _ => endedShadow)
    (by
      intro t b a
      by_cases e : a = b
      · subst e
        simp only [endBay, State.bayState, endedShadow, if_true]
        split <;> rename_i h <;> simp [releaseBay, h]
      · simp only [endBay]
        split <;> simp [releaseBay, Arr.get_modify, e])
    s a
  simpa [endBays, setLive] using this

/-- What the normalisation makes of a shadow (R94). -/
def normalShadow (r : BayRecord) (bay : Bay) : Bay :=
  { bay with
    state := (normalState r.state).1
    goTaken := r.goRequest
    goPending := false
    autoGo := false
    binding := none
    summary := none }

/-- The shadows after the normalisation. -/
theorem shadow_normalise (record : Fin 8 → BayRecord) (s : State) (a : Fin 8) :
    (normalise record s).bays.bays.get a = normalShadow (record a) (s.bays.bays.get a) :=
  foldl_allOf_get (fun a (t : State) => t.bays.bays.get a) (fun t b => normaliseBay b (record b) t)
    (fun a => normalShadow (record a))
    (by
      intro t b a
      by_cases e : a = b
      · subst e; simp [normaliseBay, normalShadow]
      · simp [normaliseBay, Arr.get_modify, e])
    s a

end Sys2Proof.Machine
end

