-- ==== Sys2Proof/Laws/Capture.lean ====
section
/-! SUPPORT. The bounds on the slots, operation by operation (R118 to R124). -/

namespace Sys2Proof.Machine

/-- The slot found is in the state sought. -/
theorem Capture.state_slotIn (c : Capture) (k n) (h : c.slotIn k = some n) : (c.slots.get n).state = k := by
  have := lowest_some h; simpa using this

/-- With none found, no slot is in the state sought. -/
theorem Capture.state_ne_of_slotIn (c : Capture) (k) (h : c.slotIn k = none) (n) : (c.slots.get n).state ≠ k := by
  have := lowest_eq_none.mp h n; simpa using this

/-- At most one slot in each state but FREE. -/
structure Capture.One (c : Capture) : Prop where
  one : ∀ state a b, state ≠ .free → (c.slots.get a).state = state → (c.slots.get b).state = state → a = b

/-- With no slot FILLING and the others one each at most, a slot is FREE. -/
theorem Capture.One.free (c : Capture) (h : Capture.One c) (hf : ∀ n, (c.slots.get n).state ≠ .filling) :
    ∃ n, c.slotIn .free = some n := by
  by_contra hc
  push Not at hc
  have hn : c.slotIn .free = none := by
    cases hh : c.slotIn .free with
    | none => rfl
    | some n => exact absurd hh (hc n)
  have h0 := Capture.state_ne_of_slotIn c _ hn
  have one := h.one
  have a0 := h0 0; have a1 := h0 1; have a2 := h0 2
  have f0 := hf 0; have f1 := hf 1; have f2 := hf 2
  have c01 := one .complete 0 1 (by simp); have c02 := one .complete 0 2 (by simp)
  have c12 := one .complete 1 2 (by simp)
  have r01 := one .reading 0 1 (by simp); have r02 := one .reading 0 2 (by simp)
  have r12 := one .reading 1 2 (by simp)
  cases e0 : (c.slots.get 0).state <;> cases e1 : (c.slots.get 1).state <;>
    cases e2 : (c.slots.get 2).state <;> simp_all

/-- The slots after those of one state have moved. -/
theorem Capture.state_moveSlots (c : Capture) (o n m) : ((c.moveSlots o n).slots.get m).state =
    if (c.slots.get m).state = o then n else (c.slots.get m).state := by
  simp only [Capture.moveSlots, Arr.get_map]; split <;> simp_all

/-- Freeing slots keeps the bounds. -/
theorem Capture.one_free (c : Capture) (o) (h : Capture.One c) : Capture.One (c.moveSlots o .free) := by
  refine ⟨fun k a b hk ha hb => ?_⟩
  rw [Capture.state_moveSlots] at ha hb; split at ha
  · exact absurd ha.symm hk
  · split at hb
    · exact absurd hb.symm hk
    · exact h.one k a b hk ha hb

/-- Moving a slot to a state that none holds keeps the bounds. -/
theorem Capture.one_moveSlots (c : Capture) (o n) (ho : o ≠ .free) (h : Capture.One c) (hn : ∀ m,
    (c.slots.get m).state ≠ n) : Capture.One (c.moveSlots o n) := by
  refine ⟨fun k a b hk ha hb => ?_⟩
  rw [Capture.state_moveSlots] at ha hb; split at ha <;> split at hb
  · exact h.one o a b ho (by assumption) (by assumption)
  · exact absurd (hb.trans ha.symm) (hn b)
  · exact absurd (ha.trans hb.symm) (hn a)
  · exact h.one k a b hk ha hb

/-- The start of a fill. -/
theorem Capture.slots_startFill (c : Capture) (h : Capture.One c) (hf : ∀ n, (c.slots.get n).state ≠ .filling) :
    c.startFill.SlotsOk := by
  obtain ⟨n, hn⟩ := Capture.One.free c h hf
  simp only [Capture.startFill, hn]
  refine ⟨fun k a b hk ha hb => ?_, ?_⟩
  · simp only [Arr.get_set] at ha hb
    split at ha <;> split at hb
    · simp_all
    · have := hf b; simp_all
    · have := hf a; simp_all
    · exact h.one k a b hk ha hb
  · simp only [true_iff]; exact ⟨n, by simp⟩

/-- A discard leaves no slot FILLING. -/
theorem Capture.state_discard_ne (c : Capture) (n) : ((c.discard).slots.get n).state ≠ .filling := by
  simp only [Capture.discard]; rw [Capture.state_moveSlots]; split <;> simp_all

/-- A discard keeps the bounds. -/
theorem Capture.one_discard (c : Capture) (h : Capture.One c) : Capture.One c.discard :=
    ⟨(Capture.one_free c .filling h).one⟩

/-- The slots are in order where no fill is in progress. -/
theorem Capture.slots_of_one (c : Capture) (h : Capture.One c) (hs : c.state ≠ .capturing) (hf : ∀ n,
    (c.slots.get n).state ≠ .filling) : c.SlotsOk :=
  ⟨h.one, ⟨fun e => absurd e hs, fun ⟨n, e⟩ => absurd e (hf n)⟩⟩

/-- Outside CAPTURING no slot is FILLING. -/
theorem Capture.SlotsOk.state_ne (c : Capture) (h : c.SlotsOk) (hs : c.state ≠ .capturing) (n) :
    (c.slots.get n).state ≠ .filling := fun e => hs (h.filling.mpr ⟨n, e⟩)

/-- An input frame start keeps the slots in order (R120). -/
theorem Capture.slots_onInput (c : Capture) (h : c.SlotsOk) : c.onInput.SlotsOk := by
  unfold Capture.onInput; split
  · exact h
  · exact h
  · rename_i hs; exact Capture.slots_startFill c ⟨h.one⟩ (Capture.SlotsOk.state_ne c h (by simp [hs]))
  · (repeat' split)
    · exact ⟨h.one, h.filling⟩
    · exact Capture.slots_startFill _ ⟨(Capture.one_discard c ⟨h.one⟩).one⟩ (Capture.state_discard_ne c)
    · exact ⟨h.one, h.filling⟩

/-- The link alone does not give CAPTURING. -/
theorem Capture.stateOf_ne (c : Capture) (k) : c.stateOf k ≠ .capturing := by
  unfold Capture.stateOf; (repeat' split) <;> simp

/-- A link change keeps the slots in order (R119). -/
theorem Capture.slots_follow (c : Capture) (k) (h : c.SlotsOk) : (c.follow k).SlotsOk := by
  unfold Capture.follow; dsimp only; split
  · split
    · exact h
    · exact Capture.slots_of_one _ ⟨(Capture.one_discard c ⟨h.one⟩).one⟩ (Capture.stateOf_ne c k)
        (Capture.state_discard_ne c)
  all_goals
    rename_i hs
    exact Capture.slots_of_one _ ⟨h.one⟩ (Capture.stateOf_ne c k) (Capture.SlotsOk.state_ne c h (by simp [hs]))

/-- A line taken keeps the slots in order (R121, R122). -/
theorem Capture.slots_takeLine (c : Capture) (sl row px cnt) (hc : ∀ d : Capture, (cnt d).slots = d.slots ∧
    (cnt d).state = d.state) (h : c.SlotsOk) : (c.takeLine sl row px cnt).SlotsOk := by
  unfold Capture.takeLine; dsimp only; (repeat' split)
  · exact Capture.slots_of_one _ ⟨(Capture.one_discard c ⟨h.one⟩).one⟩ (by simp [Capture.overflow])
      (Capture.state_discard_ne c)
  · exact Capture.slots_of_one _ ⟨(Capture.one_discard c ⟨h.one⟩).one⟩ (by simp [Capture.shortLine])
      (Capture.state_discard_ne c)
  · refine ⟨?_, ?_⟩
    · rw [(hc _).1]; exact h.one
    · rw [(hc _).1, (hc _).2]; exact h.filling

/-- A line keeps the slots in order. -/
theorem Capture.slots_onLine (c : Capture) (px) (h : c.SlotsOk) : (c.onLine px).SlotsOk := by
  unfold Capture.onLine
  (repeat' split) <;> first | exact h | exact Capture.slots_takeLine _ _ _ _ _ (fun d => ⟨rfl, rfl⟩) h

/-- Fill-done keeps the slots in order (R123). -/
theorem Capture.slots_fillDone (c : Capture) (h : c.SlotsOk) : c.fillDone.SlotsOk := by
  have h1 : Capture.One c.dropComplete := by
    unfold Capture.dropComplete; split
    · exact ⟨(Capture.one_free c .complete ⟨h.one⟩).one⟩
    · exact ⟨h.one⟩
  have h2 : ∀ n, (c.dropComplete.slots.get n).state ≠ .complete := by
    unfold Capture.dropComplete; split
    · intro n; show ((c.moveSlots .complete .free).slots.get n).state ≠ _
      rw [Capture.state_moveSlots]; split <;> simp_all
    · rename_i hn; apply Capture.state_ne_of_slotIn; simpa using hn
  have h3 : Capture.One (c.dropComplete.moveSlots .filling .complete) := Capture.one_moveSlots _ _ _ (by simp) h1 h2
  have h4 : ∀ n, ((c.dropComplete.moveSlots .filling .complete).slots.get n).state ≠ .filling := by
    intro n; rw [Capture.state_moveSlots]; split <;> simp_all
  unfold Capture.fillDone; dsimp only; split
  · have := Capture.slots_startFill _ h3 h4; exact ⟨this.one, this.filling⟩
  · exact Capture.slots_of_one _ ⟨h3.one⟩ (by simp) h4

/-- The handoff keeps the slots in order (R124). -/
theorem Capture.slots_handoff (c : Capture) (f) (h : c.SlotsOk) : (c.handoff f).SlotsOk := by
  unfold Capture.handoff; (repeat' split)
  · have h1 := Capture.one_free c .reading ⟨h.one⟩
    have h2 := Capture.one_moveSlots _ .complete .reading (by simp) h1
      (by intro m; rw [Capture.state_moveSlots]; split <;> simp_all)
    refine ⟨h2.one, ?_⟩
    show c.state = .capturing ↔ _
    rw [h.filling]
    refine exists_congr fun n => ?_
    rw [Capture.state_moveSlots, Capture.state_moveSlots]
    cases e : (c.slots.get n).state <;> simp
  · exact ⟨h.one, h.filling⟩
  · exact h

/-- With every slot FREE the slots are in order. -/
theorem Capture.slots_of_free (c d : Capture) (hs : d.slots = c.freeSlots) (hst : d.state ≠ .capturing) :
    d.SlotsOk := by
  have : ∀ n, (d.slots.get n).state = .free := by intro n; rw [hs]; simp [Capture.freeSlots]
  refine ⟨fun k a b hk ha hb => ?_, ⟨fun e => absurd e hst, fun ⟨n, e⟩ => by simp [this] at e⟩⟩
  rw [this] at ha; exact absurd ha.symm hk

/-- Enabling capture puts the slots in order (R131). -/
theorem Capture.slots_enable (c : Capture) (hd k) : (c.enable hd k).SlotsOk :=
    Capture.slots_of_free c _ rfl (by unfold Capture.enable; exact Capture.stateOf_ne _ _)

/-- Disabling capture puts the slots in order (R132). -/
theorem Capture.slots_disable (c : Capture) : c.disable.SlotsOk :=
    Capture.slots_of_free c _ rfl (by simp [Capture.disable])

end Sys2Proof.Machine
end

