-- ==== Sys2Proof/Laws/Triggers.lean ====
section
/-! SUPPORT. What the shared operations do to the trigger lines. -/

namespace Sys2Proof.Machine

/-- An alternate source's level follows the source link, the layout and the ports alone. -/
theorem AltSource.level_congr {s t : State} (a : AltSource) (h1 : t.source = s.source) (h2 : t.layout = s.layout)
    (h3 : t.ports = s.ports) : a.level t = a.level s := by
  simp [AltSource.level, h1, h2, h3]

/-- Edges marked as of one moment keep their lines, directions and order (R110). -/
theorem edges_joinMoment (n : Nat) (s : State) :
    (joinMoment n s).triggers.edges.map (fun e => (e.line, e.direction)) =
      s.triggers.edges.map (fun e => (e.line, e.direction)) := by
  have : (fun e : PassedEdge => (e.line, e.direction)) ∘ (fun e : PassedEdge => { e with together := true }) =
    fun e : PassedEdge => (e.line, e.direction) := rfl
  simp only [joinMoment, State.setTriggers_triggers, List.map_append, List.map_map, this]
  rw [← List.map_append, List.take_append_drop]

/-- Where at most one edge was passed there is nothing to mark (R110). -/
theorem joinMoment_of_le (n : Nat) (s : State) (h : s.triggers.edges.length ≤ n + 1) : joinMoment n s = s := by
  simp only [joinMoment, List.take_of_length_le h, List.drop_of_length_le h, List.map_nil, List.append_nil]
  rfl

/-- A line that begins where it stands (R111). -/
def initialLine (setup : LineSetup) (pin alt : Bool) : Line where
  setup := setup
  filtered := pin
  run := 0
  levelDue := false
  combined := setup.combine.level pin alt
  delivered := setup.combine.level pin alt
  holdOffActive := false
  holdOffLeft := 0
  pin := pin

/-- The lines after the initialisation at START. -/
theorem lines_initialiseLines (setup : Fin 4 → LineSetup) (pins : BitVec 4) (s : State) (l : Fin 4) :
    (initialiseLines setup pins s).triggers.lines.get l =
      initialLine (setup l) (pins.getLsbD l.val) ((setup l).alt.level s) := by
  have key : ∀ (ls : List (Fin 4)) (t : State), t.source = s.source → t.layout = s.layout → t.ports = s.ports → ls.Nodup →
      (ls.foldl (fun t l => initialiseLine l (setup l) (pins.getLsbD l.val) t) t).triggers.lines.get l =
        if l ∈ ls then initialLine (setup l) (pins.getLsbD l.val) ((setup l).alt.level s)
        else t.triggers.lines.get l := by
    intro ls
    induction ls with
    | nil => intro t _ _ _ _; rfl
    | cons x ls ih =>
      intro t h1 h2 h3 hn
      obtain ⟨hx, hl⟩ := List.nodup_cons.mp hn
      rw [List.foldl_cons, ih _ (by simpa using h1) (by simpa using h2) (by simpa using h3) hl]
      by_cases e : l = x
      · subst e
        simp [hx, initialiseLine, modifyLine, initialLine, AltSource.level_congr _ h1 h2 h3]
      · simp [e, initialiseLine, modifyLine, Arr.get_modify]
  have := key (allOf 4) s rfl rfl rfl (nodup_allOf 4)
  simpa [initialiseLines] using this

end Sys2Proof.Machine
end

