-- ==== Sys2Proof/Laws/FrameStart.lean ====
section
/-! SUPPORT. What the shared operations of an output frame start do: the channels, the lines' setups, the end of a STOP. -/

namespace Sys2Proof.Machine

/-- The bytes of a burst follow the bytes and word errors of memory alone. -/
theorem Memory.readBytes_congr {m n : Memory} (hc : n.cells = m.cells) (he : n.errors = m.errors) (a k : Nat) :
    n.readBytes a k = m.readBytes a k := by
  obtain ⟨_, _, _⟩ := m
  obtain ⟨_, _, _⟩ := n
  subst hc he
  rfl

/-- The bytes of a control area read follow memory and the validated area alone. -/
theorem State.controlBytes_congr {s t : State} (hc : t.memory.cells = s.memory.cells) (he : t.memory.errors = s.memory.errors)
    (ha : t.device.validatedArea = s.device.validatedArea) (o k : Nat) : t.controlBytes o k = s.controlBytes o k := by
  simp only [State.controlBytes, State.area, ha]
  exact Memory.readBytes_congr hc he _ _

/-- Whether a channel renders follows the device state, the layout and the ports alone. -/
theorem rendersNow_congr {s t : State} (h1 : t.device = s.device) (h2 : t.layout = s.layout) (h3 : t.ports = s.ports)
    (c : Fin 6) : rendersNow t c = rendersNow s c := by
  simp [rendersNow, h1, h2, h3]

/-- A channel after the output frame start of a state (R17, R156, R157, R159, R160). -/
def channelAfter (s : State) (c : Fin 6) (ch : Channel) : Channel :=
  let latched :=
    if s.layout.isEnabled c then ch.close.latch (s.controlBytes (controlOffset c) controlBytes) else ch.close
  latched.begin (rendersNow s c)

/-- The channels after every channel's response. -/
theorem channels_framesBegun (s : State) (c : Fin 6) :
    (framesBegun s).channels.get c = channelAfter s c (s.channels.get c) := by
  have := foldl_allOf_get_of
    (fun t : State => t.device = s.device ∧ t.layout = s.layout ∧ t.ports = s.ports ∧ t.memory.cells = s.memory.cells ∧
      t.memory.errors = s.memory.errors)
    (fun a (t : State) => t.channels.get a) (fun t b => channelAtFrameStart b t) (channelAfter s)
    (by rintro t b ⟨h1, h2, h3, h4, h5⟩; simp [h1, h2, h3, h4, h5])
    (by
      rintro t b a ⟨h1, h2, h3, h4, h5⟩
      by_cases e : a = b
      · subst e
        have hb : (closeCounts a t).controlBytes (controlOffset a) controlBytes =
            s.controlBytes (controlOffset a) controlBytes :=
          State.controlBytes_congr (by simp [h4]) (by simp [h5]) (by simp [h1]) _ _
        have hc : (closeCounts a t).channels = t.channels.modify a Channel.close := by
          simp [closeCounts, modifyChannel]
        have hr := rendersNow_congr (s := s) (t := t) h1 h2 h3 a
        by_cases he : s.layout.isEnabled a = true
        · simp [channelAtFrameStart, channelAfter, modifyChannel, hr, hc, latchControls, h2, he, hb]
        · simp [channelAtFrameStart, channelAfter, modifyChannel, hr, hc, latchControls, h2, he]
      · simp only [channelAtFrameStart, modifyChannel, State.setChannels_channels]
        rw [if_neg e, Arr.get_modify, if_neg e]
        simp only [latchControls]
        split <;> simp [closeCounts, modifyChannel, Arr.get_modify, e])
    s ⟨rfl, rfl, rfl, rfl, rfl⟩ c
  simpa [framesBegun] using this

/-- The channels after an output frame start: begun anew, with the first row requested. -/
theorem channels_channelsAtFrameStart (s : State) (c : Fin 6) :
    (channelsAtFrameStart s).channels.get c =
      { channelAfter s c (s.channels.get c) with window := request (channelsAtFrameStart s) c [] } := by
  have hb : (requestRows (framesBegun s)).channels.get c =
      { channelAfter s c (s.channels.get c) with window := request (framesBegun s) c [] } := by
    rw [channels_requestRows, channels_framesBegun]
    rfl
  have ht : (channelsAtFrameStart s).channels.get c = (requestRows (framesBegun s)).channels.get c := rfl
  have hq : request (channelsAtFrameStart s) c [] = request (framesBegun s) c [] :=
    request_congr (s := framesBegun s) (t := channelsAtFrameStart s) rfl rfl rfl
      (by rw [ht, channels_requestRows]; rfl) (by rw [ht, channels_requestRows])
      (by rw [ht, channels_requestRows]) []
  rw [ht, hb, hq]

/-- The ports after an output frame start. -/
theorem ports_channelsAtFrameStart (s : State) :
    (channelsAtFrameStart s).ports = s.ports.map (fun port => { port with position := 0 }) := by
  have : (framesBegun s).ports = s.ports := foldl_keeps (fun t : State => t.ports) _ (by intro t c; simp) _ _
  simp [channelsAtFrameStart, this]

/-- A recomputation keeps every line's setup. -/
theorem setup_recompute (l : Fin 4) (s : State) (a : Fin 4) :
    ((recompute l s).triggers.lines.get a).setup = (s.triggers.lines.get a).setup := by
  simp only [recompute, deliveryTest, deliverEdge, passEdge]
  split
  · split <;> (simp [modifyLine, Arr.get_modify, Line.deliver]; split <;> simp_all)
  · simp only [modifyLine, State.setTriggers_triggers, Arr.get_modify]
    split <;> simp_all

/-- The setups after the latch at an output frame start (R100). -/
theorem setup_latchSetups (s : State) (h : s.triggers.runMark = true) (l : Fin 4) :
    ((latchSetups s).triggers.lines.get l).setup = s.setupRecord l := by
  simp only [latchSetups, h, if_true, (joinMoment_frame _ _).2.2.2.2.2.2.2.2.2.2.2.2.2.2.2.2]
  exact foldl_allOf_get (fun a (t : State) => (t.triggers.lines.get a).setup) (fun t l => latchLine l (s.setupRecord l) t)
    (fun a _ => s.setupRecord a)
    (by
      intro t b a
      simp only [latchLine]
      split
      · rw [setup_recompute]
        simp only [modifyLine, State.setTriggers_triggers, Arr.get_modify]
        split <;> simp_all
      · simp only [modifyLine, State.setTriggers_triggers, Arr.get_modify]
        split <;> simp_all)
    _ l

end Sys2Proof.Machine
end

