-- ==== Sys2Proof/Laws/Pixel.lean ====
section
/-! SUPPORT. The segments of ramps and encode tables (R18, R21). -/

namespace Sys2Proof.Machine

/-- A point of a segment: the floor division of the rule, between the ends of the segment. -/
theorem segment_between (a b f d : Nat) (hd : 0 < d) (he : d % 2 = 0) (hf : f < d) :
    (segment a b f d : Int) = a + (((b : Int) - a) * f + (d / 2 : Nat)) / d ∧ min a b ≤ segment a b f d ∧
      segment a b f d ≤ max a b := by
  have hD : (0 : Int) < d := by exact_mod_cast hd
  have hF : (f : Int) < d := by exact_mod_cast hf
  have hF0 : (0 : Int) ≤ f := Int.natCast_nonneg _
  have hh : (2 : Int) * (d / 2 : Nat) = d := by
    have : 2 * (d / 2) = d := by omega
    exact_mod_cast this
  set q : Int := (((b : Int) - a) * f + (d / 2 : Nat)) / d with hq
  have q1 : d * q ≤ ((b : Int) - a) * f + (d / 2 : Nat) := Int.mul_ediv_self_le (by omega)
  have q2 : ((b : Int) - a) * f + (d / 2 : Nat) < d * q + d := by
    have := Int.lt_mul_ediv_self_add (x := ((b : Int) - a) * f + (d / 2 : Nat)) hD; exact this
  have hr : min (a : Int) b ≤ a + q ∧ a + q ≤ max (a : Int) b := by
    rcases le_total (a : Int) b with hab | hab
    · rw [min_eq_left hab, max_eq_right hab]
      constructor
      · by_contra hc
        have : q ≤ -1 := by omega
        nlinarith
      · by_contra hc
        have : (b : Int) - a + 1 ≤ q := by omega
        nlinarith
    · rw [min_eq_right hab, max_eq_left hab]
      constructor
      · by_contra hc
        have : q ≤ (b : Int) - a - 1 := by omega
        nlinarith
      · by_contra hc
        have : 1 ≤ q := by omega
        nlinarith
  have h0 : 0 ≤ (a : Int) + q := le_trans (by omega) hr.1
  have hs : (segment a b f d : Int) = a + q := by rw [segment]; exact Int.toNat_of_nonneg h0
  refine ⟨hs, by omega, by omega⟩

end Sys2Proof.Machine
end

