-- ==== Sys2Proof/Laws/Status.lean ====
section
/-! SUPPORT. How the status writer's requests are cut into bursts, and what a snapshot hands over (R168, R188, R189). -/

namespace Sys2Proof.Machine

/-- The bursts of a write hold its bytes, in order. -/
theorem flatten_burstsOf (l : List (Nat × Byte)) : (burstsOf l).flatten = l := by
  induction l with
  | nil => rfl
  | cons c l ih =>
    rw [burstsOf]
    split
    · rename_i d run runs h
      rw [h] at ih
      split <;> simpa using ih
    · simpa using ih

/-- A burst is not empty, and its bytes follow one another within one 256-byte block (R168). -/
theorem run_burstsOf (l : List (Nat × Byte)) :
    ∀ run ∈ burstsOf l, run ≠ [] ∧ run.IsChain (fun c d => d.1 = c.1 + 1 ∧ d.1 % Config.burstBlock ≠ 0) := by
  induction l with
  | nil => simp [burstsOf]
  | cons c l ih =>
    rw [burstsOf]
    split
    · rename_i d run runs h
      rw [h] at ih
      split
      · rename_i hd
        intro r hr
        rcases List.mem_cons.mp hr with rfl | hr
        · exact ⟨by simp, List.isChain_cons_cons.mpr ⟨hd, (ih _ (by simp)).2⟩⟩
        · exact ih r (by simp [hr])
      · intro r hr
        rcases List.mem_cons.mp hr with rfl | hr
        · simp
        · exact ih r hr
    · intro r hr
      rcases List.mem_cons.mp hr with rfl | hr
      · simp
      · exact ih r hr

/-- What a snapshot does to the status writer (R188, R189). -/
theorem snapshot_status (s : State) (area : Nat) (h : s.device.validatedArea = some area) :
    (snapshot s).status =
      { s.status with
        snapshotCount := s.status.snapshotCount + 1
        queue := s.status.queue ++ snapshotRequests (area + statusOffset) (countSnapshot s) } := by
  simp [snapshot, h, handRequests, countSnapshot]

/-- With no validated area a snapshot does nothing (R188). -/
theorem snapshot_none (s : State) (h : s.device.validatedArea = none) : snapshot s = s := by
  simp [snapshot, h]

end Sys2Proof.Machine
end

