-- ==== Sys2Proof/Laws/Timing.lean ====
section
/-! SUPPORT. The spacing of output frame starts, operation by operation (R135 to R144). -/

namespace Sys2Proof.Machine

/-- A good period is at least half the profile's. -/
theorem Timing.half_le_of_good (t : Timing) (now last : Nat) (h : t.latestInput = some last) (hg : t.endsGood now =
    true) : t.period / 2 ≤ now - last := by
  simp only [Timing.endsGood, h, Timing.goodPeriod, decide_eq_true_eq] at hg
  rw [abs_le] at hg
  omega

/-- An output frame start keeps the spacing. -/
theorem Timing.spaced_startAt (t : Timing) (now) (h : t.SpacedOk) : (t.startAt now).SpacedOk := by
  obtain ⟨h1, h2, h3, h4⟩ := h
  unfold Timing.startAt
  dsimp only
  split
  · rename_i hs; refine ⟨fun _ => rfl, ?_, ?_, ?_⟩ <;> simp [Timing.nextStart, hs]
  · rename_i hs; refine ⟨fun _ => rfl, ?_, ?_, ?_⟩ <;> simp [Timing.nextStart]
    intro _; exact h4 (Or.inl hs)
  · rename_i hs; refine ⟨fun _ => rfl, ?_, ?_, ?_⟩ <;> simp [Timing.nextStart]
    intro _; exact h4 (Or.inr (Or.inl hs))
  · rename_i hs; refine ⟨fun _ => rfl, ?_, ?_, ?_⟩ <;> simp [Timing.nextStart, hs] <;> omega
  · rename_i hs
    have h5 := h4 (Or.inr (Or.inr hs))
    split
    · refine ⟨fun _ => rfl, ?_, ?_, ?_⟩ <;> simp [Timing.nextStart] <;> omega
    · refine ⟨fun _ => rfl, ?_, ?_, ?_⟩ <;> simp [Timing.nextStart] <;> omega

/-- A measurement keeps the spacing. -/
theorem Timing.spaced_measure (t : Timing) (now) (h : t.SpacedOk) : (t.measure now).SpacedOk := by
  refine ⟨h.1, h.2, h.3, ?_⟩
  intro hs
  simp only [Timing.measure]
  split
  · rename_i hg
    cases hl : t.latestInput with
    | none => simp [Timing.endsGood, hl] at hg
    | some last => exact Timing.half_le_of_good t now last hl hg
  · exact h.4 hs

/-- A good period leaves a measured period of at least half the profile's. -/
theorem Timing.half_le_measured (t : Timing) (now) (hg : t.endsGood now = true) :
    t.period / 2 ≤ (t.measure now).measured := by
  simp only [Timing.measure, hg, if_true]
  cases hl : t.latestInput with
  | none => simp [Timing.endsGood, hl] at hg
  | some last => exact Timing.half_le_of_good t now last hl hg

/-- Leaving ACQUIRE or LOCKED keeps the spacing (R144). -/
theorem Timing.spaced_leaveLock (t : Timing) (now) (h : t.SpacedOk) (hs : t.state = .acquire ∨ t.state = .locked) :
    (t.leaveLock now).SpacedOk := by
  have h4 := h.measured (by rcases hs with h | h <;> simp [h])
  have hc : t.period / 2 ≤ t.cadence := by unfold Timing.cadence; split <;> omega
  have hst := h.started (by rcases hs with h | h <;> simp [h])
  obtain ⟨s0, hs0⟩ := Option.isSome_iff_exists.mp hst
  cases hp : t.pendingPlacement with
  | some p =>
    refine ⟨fun _ => hst, ?_, ?_, ?_⟩
    · intro s n hs hn; apply h.spaced s n hs; simp [Timing.nextStart, Timing.leaveLock, hp] at hn ⊢; exact hn
    · intro s n hs hn; simp [Timing.leaveLock, hp] at hn
    · intro _; exact h4
  | none =>
    refine ⟨fun _ => hst, ?_, ?_, ?_⟩
    · intro s n hs hn; simp [Timing.nextStart, Timing.leaveLock, hp, hs0] at hn hs
      obtain ⟨_, rfl⟩ := hn; subst hs; show s0 + t.period / 2 ≤ _; omega
    · intro s n hs hn; simp [Timing.leaveLock, hp, hs0] at hn hs
      obtain ⟨_, rfl⟩ := hn; subst hs; show s0 + t.period / 2 ≤ _; omega
    · intro _; exact h4

/-- The placement test keeps the spacing (R140). -/
theorem Timing.spaced_place (t : Timing) (now) (h : t.SpacedOk) : (t.place now).SpacedOk := by
  unfold Timing.place; split
  · exact h
  · exact h
  · rename_i s hp hs; split
    · refine ⟨h.1, ?_, h.3, h.4⟩
      intro s' n hs' hn; simp [Timing.nextStart] at hn; subst hn; rw [hs] at hs'; obtain rfl := Option.some.inj hs';
        assumption
    · exact h

/-- Entry to ACQUIRE keeps the spacing (R139). -/
theorem Timing.spaced_enterAcquire (t : Timing) (now) (h : t.SpacedOk) (hst : t.state ≠ .stopped) (hm :
    t.period / 2 ≤ t.measured) : (t.enterAcquire now).SpacedOk := by
  refine ⟨fun _ => h.1 hst, ?_, ?_, fun _ => hm⟩
  · intro s n hs hn
    simp only [Timing.nextStart, Timing.enterAcquire, Timing.arm] at hn
    cases hp : t.pendingPlacement with
    | none => simp [hp] at hn
    | some p => simp [hp] at hn; exact h.2 s n hs (by simp [Timing.nextStart, hp, hn])
  · intro s n hs hn; simp [Timing.enterAcquire, Timing.arm] at hn

/-- An input frame start keeps the spacing. -/
theorem Timing.spaced_onInput (t : Timing) (now) (h : t.SpacedOk) : (t.onInput now).SpacedOk := by
  have hm := Timing.spaced_measure t now h
  unfold Timing.onInput; dsimp only; split
  · exact h
  · rename_i hs
    split
    · rename_i hg; simp at hg
      exact Timing.spaced_enterAcquire _ _ hm (by simp [Timing.measure, hs]) (Timing.half_le_measured t now hg.1)
    · exact hm
  · rename_i hs; apply Timing.spaced_place
    have h4 := hm.4 (Or.inl hs)
    unfold Timing.countRun Timing.arm; dsimp only
    (repeat' split) <;> exact ⟨fun _ => hm.1 (by simp [Timing.measure, hs]), hm.2, hm.3, fun _ => h4⟩
  · rename_i hs; split
    · apply Timing.spaced_place; exact ⟨hm.1, hm.2, hm.3, hm.4⟩
    · exact Timing.spaced_leaveLock _ _ hm (Or.inr hs)
  · rename_i hs
    split
    · rename_i hg
      exact Timing.spaced_enterAcquire _ _ hm (by simp [Timing.measure, hs]) (Timing.half_le_measured t now hg)
    · exact hm

/-- The entry to STOPPED keeps the spacing. -/
theorem Timing.spaced_stop (t : Timing) : t.stop.SpacedOk := by
  refine ⟨fun e => by simp [Timing.stop] at e, ?_, ?_, fun e => by simp [Timing.stop] at e⟩ <;> simp [Timing.stop,
    Timing.nextStart]

/-- The entry to FREE begins with the spacing. -/
theorem Timing.spaced_begin (t : Timing) (hd now) : (t.begin hd now).SpacedOk := by
  refine ⟨fun e => rfl, ?_, ?_, fun e => by simp [Timing.begin] at e⟩ <;> simp [Timing.begin,
    Timing.nextStart] <;> omega

end Sys2Proof.Machine
end

