-- ==== Sys2Proof/WellFormed.lean ====
section
/-! DEFINITION. Which commands are well formed: the operand ranges the spec gives. -/

namespace Sys2Proof

/-- A format announcement carries a width and a height of 1 to 16,383 (R115). -/
def Format.wellFormed (f : Format) : Bool :=
  decide (1 ≤ f.width ∧ f.width ≤ 16383 ∧ 1 ≤ f.height ∧ f.height ≤ 16383)

/-- A host access covers at least one byte and lies within frame memory (R167). -/
def accessWellFormed (address length : Nat) : Bool :=
  decide (1 ≤ length ∧ address + length ≤ Config.frameMemoryBytes)

/-- A register write writes at least one of the four bytes (R185). -/
def RegWrite.wellFormed (w : RegWrite) : Bool := decide (w.enables ≠ 0)

/-- The operand checks of a command. -/
def Instr.wellFormed : Instr → Bool
  | .start => true
  | .stop => true
  | .reset => true
  | .areaBaseWrite w => w.wellFormed
  | .noticeClear w => w.wellFormed
  | .noticeEnableWrite w => w.wellFormed
  | .registerWriteIgnored _ w => w.wellFormed
  | .powerOnReset found =>
      found.cells.all (fun c => decide (c.1 < Config.frameMemoryBytes)) &&
        found.errors.all (fun e => decide (e.1 < Config.frameMemoryBytes / 8))
  | .pciExpressLinkReset => true
  | .hostWrite address data => accessWellFormed address data.length
  | .hostRead address length => accessWellFormed address length
  | .presenceChange none => true
  | .presenceChange (some f) => f.wellFormed
  | .formatAnnouncement f => f.wellFormed
  | .inputFrameStart _ _ => true
  | .line _ => true
  | .fillDone => true
  | .outputFrameStart _ => true
  | .missingStartDeadline _ => true
  | .validationDone _ _ => true
  | .checkDone => true
  | .loadDone => true
  | .passedEdge => true
  | .filteredLevelChange _ => true
  | .holdOffExpiry _ => true
  | .presenceRise _ => true
  | .presenceFall _ => true
  | .lossOfLock _ => true
  | .trainingDone _ _ => true
  | .attemptTimerExpiry _ => true
  | .retryTimerExpiry _ => true
  | .burstGrant size => decide (1 ≤ size ∧ size ≤ Config.burstBlock)
  | .renderPixel _ => true
  | .pixelDue _ => true
  | .sampleTick _ _ => true

end Sys2Proof
end

