-- ==== Sys2Proof/Tests/Slice0.lean ====
section
/-! SUPPORT. Ill-formed operands that the check refuses, the spec's worked examples, and a state that meets the premises of
every obligation, clause by clause. -/

open Sys2Proof Sys2Proof.Machine

namespace Sys2Proof.Tests

/-! ## Ill-formed operands -/

theorem test_format_widthZero_illFormed : (Instr.formatAnnouncement ⟨0, 360, .wide⟩).wellFormed = false := by decide

theorem test_format_heightTooGreat_illFormed :
    (Instr.presenceChange (some ⟨640, 16384, .normal⟩)).wellFormed = false := by decide

theorem test_format_bounds_wellFormed : (Instr.formatAnnouncement ⟨16383, 1, .wide⟩).wellFormed = true := by decide

theorem test_hostWrite_empty_illFormed : (Instr.hostWrite 0 []).wellFormed = false := by decide

theorem test_hostRead_pastEnd_illFormed : (Instr.hostRead 2147483647 2).wellFormed = false := by decide

theorem test_hostRead_lastByte_wellFormed : (Instr.hostRead 2147483647 1).wellFormed = true := by decide

theorem test_registerWrite_noByte_illFormed :
    (Instr.areaBaseWrite ⟨0, 5⟩).wellFormed = false ∧ (Instr.noticeClear ⟨0, 5⟩).wellFormed = false ∧
    (Instr.noticeEnableWrite ⟨0, 5⟩).wellFormed = false ∧
    (Instr.registerWriteIgnored .ident ⟨0, 5⟩).wellFormed = false := by decide

theorem test_powerOn_cellOutside_illFormed : (Instr.powerOnReset ⟨[(2147483648, 1)], []⟩).wellFormed = false := by decide

theorem test_powerOn_errorOutside_illFormed :
    (Instr.powerOnReset ⟨[], [(268435456, .single)]⟩).wellFormed = false := by decide

theorem test_burstGrant_size_illFormed :
    (Instr.burstGrant 0).wellFormed = false ∧ (Instr.burstGrant 257).wellFormed = false ∧
    (Instr.burstGrant 256).wellFormed = true := by decide

/-! ## Worked examples of the spec -/

/-- 01, after R7: u = −35. -/
theorem test_example_coordinates :
    bilinear ⟨16, 0, 0, 4, 0⟩ ⟨-40, -20, 0, 0⟩ = -35 := by decide

/-- 01, after R10: the zones of u on a canvas of 3840 columns. -/
theorem test_example_canvas :
    canvasTest (-64) 3840 = none ∧ canvasTest (-63) 3840 = some 0 ∧ canvasTest (-35) 3840 = some 0 ∧
    canvasTest 0 3840 = some 0 ∧ canvasTest 245696 3840 = some 245696 ∧ canvasTest 245720 3840 = some 245696 ∧
    canvasTest 245759 3840 = some 245696 ∧ canvasTest 245760 3840 = none := by decide

/-- 01, after R17: a row above the range and one below it. -/
theorem test_example_matrix :
    matrixRow [4200, 0, 0] 0 ⟨65535, 65535, 65535⟩ = 67199 ∧ matrixRow [-100, 0, 0] 0 ⟨1000, 0, 0⟩ = -24 ∧
    clampLinear 67199 = 65535 ∧ clampLinear (-24) = 0 ∧ clippedBy ⟨67199, 5, -24⟩ = true := by decide

/-- 01, after R19: β = 1993 on a falling segment. -/
theorem test_example_ramp :
    rampValue ([0, 0, 0, 0, 0, 0, 0] ++ [2000, 1790]) 1800 = 1993 := by decide

/-- 01, after R21: the code of Lo = 65,535 in a table that ends with 1000 and 1010. -/
theorem test_example_encode : Machine.segment 1000 1010 63 64 = 1010 ∧ lift 4095 4096 65400 = 65535 := by decide

/-- 01, 1.13: the coordinates and weights of pixel (40, 70) of channel 2. -/
theorem test_example_workedPixel :
    coordinatesOf ⟨32, 1, 2, 8, 6⟩
      ⟨⟨64000, 38400, 4096, 512, false⟩, ⟨66100, 38420, 3000, 0, false⟩, ⟨64050, 40460, 4096, 512, false⟩,
        ⟨66180, 40500, 3000, 0, false⟩⟩ = ⟨64536, 38792, 3822, 384⟩ := by decide

/-- 03, after R54: the first address of a decode table named by its last entry, and one that is not aligned. -/
theorem test_example_extent :
    extentFirst 0x400207FE 1024 2 = 0x40020000 ∧ extentAligned 0x400207FE 1024 2 = true ∧
    extentAligned 0x40020800 1024 2 = false := by decide

/-- 06, after R117: the slot size of a canvas of 7000 × 2100, and pixel (5, 2) of slot 1. -/
theorem test_example_slots :
    slotSizeOf 7000 2100 = 0x03814000 ∧ slotSizeOf 7680 2160 = 66355200 ∧
    ({ resetCapture with wc := 7000, slotBase := 0x10000000, slotSize := 0x03814000 } : Capture).pixelAddress 1 5 2 =
      0x13821AD4 := by decide

/-- 10, the example after R192: a record that holds sequence 42 with three kinds of fault. -/
theorem test_example_faults :
    let empty : FaultRecord := { emptyFault with sequence := 41 }
    let filled := ((empty.take .memory 0x2A001F40 900).take .link 3 902).take .table 0x101 905
    filled.sequence = 42 ∧ filled.kind = some .table ∧ filled.further = 2 ∧ filled.seenMemory = true ∧
    (filled.acknowledge 42).occupied = false ∧ ((filled.acknowledge 42).take .memory 8 911).sequence = 43 := by decide

/-! ## States that meet the premises -/

/-- The state after reset in another device state, with area 0 validated. -/
def inState (d : DeviceState) : State :=
  State.reset.setDevice { resetDevice with state := d, validatedArea := some 0 }

/-- The state after reset with a value of AREA_BASE. -/
def withArea (base : Word) : State := State.reset.setLink { resetLink with areaBase := base }

/-- A running device with another generator state. -/
def timed (d : DeviceState) (stops : Nat) (t : Timing) : State :=
  ((inState d).setDevice { resetDevice with state := d, stopCount := stops, validatedArea := some 0 }).setTiming t

/-- A running device with a port changed. -/
def withPort (port : Port) : State := (inState .running).setPorts (Arr.replicate 6 port)

/-- A running device with the trigger lines changed. -/
def withLines (line : Line) : State :=
  (inState .running).setTriggers ⟨true, Arr.replicate 4 line, [], 0⟩

/-- A running device with every bay in a state. -/
def withBays (bay : Bay) : State := (inState .running).setBays ⟨Arr.replicate 8 bay, none, 0, 0⟩

/-- A generator in a state, with P = 256,000 and the latest starts at tick 0. -/
def generator (k : TimingState) : Timing :=
  { resetTiming with
    state := k, period := 256000, lockMode := .follow, latestStart := some 0, nextScheduled := some 256000,
    latestInput := some 0 }

/-- Capture enabled on a canvas of 1 × 1 in a state, with the slots given. -/
def capturing (k : CaptureState) (a b c : SlotState) : Capture :=
  { resetCapture with
    enabled := true, state := k, wc := 1, hc := 1, slotSize := 4096,
    slots := ⟨[⟨a, 0⟩, ⟨b, 0⟩, ⟨c, 0⟩], rfl⟩ }

/-- The bytes of a header that START takes with the control area at 0, its fields at bounds of their ranges. -/
def goodHeader (signature : Nat) (mask : Byte) (slotBase : Nat) : List Byte :=
  leBytes 4 signature ++ leBytes 2 640 ++ leBytes 2 360 ++ leBytes 2 640 ++ leBytes 2 360 ++ leBytes 4 225000 ++
    [0, mask, 0, 0] ++ leBytes 2 0 ++ leBytes 2 0 ++ leBytes 4 112500 ++ [5, 5, 0, 0, 0, 0] ++ leBytes 6 0 ++
    leBytes 4 slotBase ++ leBytes 4 2830336 ++ leBytes 4 2147483648

/-- The reads of a START returned, the header's bytes given. -/
def returnedReads (header : List Byte) : State :=
  State.reset.setDevice
    { resetDevice with
      state := .starting, validatedArea := some 0,
      returned := (.header, header) :: ((allOf 8).map (fun b => (.bay b, [])) ++ (allOf 4).map (fun l => (.setup l, []))) }

/-- Capture in a state after reset. -/
def withCapture (c : Capture) : State := (inState .running).setCapture c

/-- A bay in a state, bound to a rise of line 0. -/
def bayAt (k : BayState) : Bay := { resetBay with state := k, binding := some (0, .rise) }

/-- A bank of one mesh of four points, with the words whose parity fails. -/
def meshBank (bad : List TableWord) : Bank :=
  ⟨Arr.replicate 6 { blankChannel with meshPresent := true, columns := 2, rows := 2 }, [], [], bad⟩

/-- A running device that draws a raster of one pixel, port 0 sending channel 0, from a canvas of one pixel. -/
def drawing (mode : Mode) (bad : List TableWord) (link : LinkState) (pixel : Nat) : State :=
  ((((withCapture (capturing .waiting .reading .free .free)).setLayout
    ⟨1, 1, 0, 0, 1, Arr.replicate 6 0⟩).setStore ⟨meshBank bad, meshBank bad, .a⟩).setPorts
    (Arr.replicate 6 { resetPort true 0 with state := link })).setChannels
    (Arr.replicate 6 { resetChannel with
      mode := mode, rendering := true, nextPixel := pixel, window := if mode = .picture then [⟨0, []⟩] else [] })

theorem test_StepRunsFrontCommand :
    (State.reset.setPending [.start]).pending = .start :: [] ∧ State.reset.pending = [] := by decide

theorem test_PowerOnReset :
    let found : FoundMemory := ⟨[(2147483647, 7)], [(268435455, .single)]⟩
    (found.cells.map Prod.fst).Nodup ∧ (∀ c ∈ found.cells, c.1 < Config.frameMemoryBytes) ∧
    (∀ c ∈ found.cells, c.1 ≠ 0) ∧ (found.errors.map Prod.fst).Nodup ∧
    ∀ e ∈ found.errors, e.1 < Config.frameMemoryBytes / 8 := by decide

theorem test_DeviceReset : State.reset.link.queue = [] := by decide

theorem test_RegisterWrites :
    (State.reset.link.queue = [] ∧ State.reset.device.state = .idle) ∧
    ((inState .running).link.queue = [] ∧ (inState .running).device.state ≠ .idle) := by decide

theorem test_RegisterReads :
    (0 < 24 ∧ 0 < 4 ∧ 0 % 4 + 4 ≤ 4 ∧ 23 % 4 + 1 ≤ 4) ∧
    (let bit (w : RegWrite) (i : Nat) : Bool := w.enables.getLsbD (i / 8) && w.value.getLsbD i;
     bit ⟨15, 7⟩ 2 = true ∧ (bit ⟨1, 1⟩ 2 = false ∧ bit ⟨1, 1⟩ 0 = true ∧ bit ⟨1, 1⟩ 1 = false) ∧
      (bit ⟨1, 2⟩ 2 = false ∧ bit ⟨1, 2⟩ 0 = false ∧ bit ⟨1, 2⟩ 1 = true) ∧
      (bit ⟨1, 3⟩ 2 = false ∧ bit ⟨1, 3⟩ 0 = bit ⟨1, 3⟩ 1) ∧ bit ⟨14, 7⟩ 2 = false) := by decide

theorem test_StartAndStopInStarting :
    ((withArea 0x7FFF0000).link.queue = [] ∧ (withArea 0x7FFF0000).device.state = .idle ∧
      (withArea 0x7FFF0000).link.areaBase.toNat / 65536 ≤ 32767) ∧
    ((withArea 0x80000000).link.queue = [] ∧ (withArea 0x80000000).device.state = .idle ∧
      32767 < (withArea 0x80000000).link.areaBase.toNat / 65536) ∧
    (inState .starting).link.queue = [] ∧ (inState .starting).device.state = .starting := by decide

theorem test_StopWhileRunning : (inState .running).link.queue = [] ∧ (inState .running).device.state = .running := by decide

/-- Headers at the bounds of each test: the first test that fails is the one named. -/
theorem test_ValidationDone_header :
    let header (signature : Nat) (mask : Byte) (slotBase : Nat) := parseHeader (goodHeader signature mask slotBase)
    (header 0x54360002 1 65536).judge 0 = .signature ∧ (header 0x54360001 64 65536).judge 0 = .profile ∧
    (header 0x54360001 3 65536).judge 0 = .portmap ∧ (header 0x54360001 1 61440).judge 0 = .arena ∧
    (header 0x54360001 1 65536).judge 0 = .ok := by decide +kernel

theorem test_ValidationDone :
    (let s := returnedReads [];
      s.readsReturned = true ∧ s.device.validatedArea = some 0 ∧
      (parseHeader (readBlock s.device.returned .header)).judge 0 ≠ .ok) ∧
    (let s := returnedReads (goodHeader 0x54360001 1 65536);
      s.readsReturned = true ∧ s.device.validatedArea = some 0 ∧
      (parseHeader (readBlock s.device.returned .header)).judge 0 = .ok) := by decide +kernel

theorem test_Snapshot :
    State.reset.device.validatedArea = none ∧ (inState .running).device.validatedArea = some 0 ∧
    (∀ n, (State.reset.capture.slots.get n).state ≠ .reading) ∧
    (let s := withCapture (capturing .waiting .free .free .reading);
      (s.capture.slots.get 2).state = .reading ∧ ∀ m, (s.capture.slots.get m).state = .reading → m = 2) ∧
    State.reset.layout.portOf 5 = none ∧ (drawing .flat [] .up 0).layout.portOf 0 = some 0 := by decide +kernel

theorem test_InputFrameStartTiming :
    resetTiming.state = .stopped ∧
    ((generator .free).endsGood 257000 = true ∧ (generator .free).lockMode = .follow) ∧
    (generator .free).endsGood 257001 = false ∧ (generator .acquire).endsGood 254999 = false ∧
    ((generator .acquire).endsGood 255000 = true ∧ ({ generator .acquire with goodRun := 6 } : Timing).goodRun + 1 < 8) ∧
    8 ≤ ({ generator .acquire with goodRun := 7 } : Timing).goodRun + 1 ∧
    (generator .locked).endsGood 257000 = true ∧ (generator .locked).endsGood 257001 = false ∧
    (generator .holdover).endsGood 255000 = true ∧ (generator .holdover).endsGood 254999 = false := by decide

/-- A locked generator with no start scheduled, L = 10, and a latest output frame start. -/
def waiting (latest : Nat) (placement deadline : Option Nat) (m : Nat) : Timing :=
  { generator .locked with
    nextScheduled := none, latency := 10, latestStart := some latest, pendingPlacement := placement, deadline := deadline,
    measured := m, holdoverLimit := 5 }

theorem test_PlacementTest :
    ((waiting 0 (some 5) none 0).endsGood 256000 = true ∧ (waiting 0 (some 5) none 0).pendingPlacement = some 5) ∧
    ((waiting 128010 none none 0).period / 2 ≤ 256000 + (waiting 128010 none none 0).latency - 128010) ∧
    (256000 + (waiting 128011 none none 0).latency < 128011 + (waiting 128011 none none 0).period / 2) := by decide

/-- A generator that places with L = 0, its latest output frame start at a tick. -/
def placing (k : TimingState) (latest : Nat) (placement : Option Nat) : Timing :=
  { generator k with nextScheduled := none, latency := 0, latestStart := some latest, pendingPlacement := placement }

theorem test_InputFrameStart :
    ((placing .acquire 128000 none).latency = 0 ∧ 128000 + (placing .acquire 128000 none).period / 2 ≤ 256000) ∧
    ¬ (128001 + (placing .acquire 128001 none).period / 2 ≤ 256000) ∧
    ((placing .locked 0 (some 256000)).endsGood 256000 = true ∧
      (placing .locked 0 (some 256000)).pendingPlacement = some 256000) ∧
    (let g := { placing .locked 10 none with latestInput := none, holdoverLimit := 0 };
      g.endsGood 256010 = false ∧ g.pendingPlacement = none ∧ 10 + g.period ≤ 256010) ∧
    (let g := { placing .locked 10 none with latestInput := none, holdoverLimit := 5, measured := 256001 };
      g.endsGood 256010 = false ∧ ¬ (10 + g.measured ≤ 256010)) ∧
    (generator .free).state ≠ .acquire ∧ (generator .free).state ≠ .locked := by decide

/-- A generator in HOLDOVER with H = 3 and a holdover count. -/
def held (count : Nat) : Timing := { generator .holdover with holdoverCount := count, holdoverLimit := 3 }

theorem test_OutputFrameStartTiming :
    (generator .free).state = .free ∧ (generator .acquire).state = .acquire ∧ (generator .locked).state = .locked ∧
    (held 2).state = .holdover ∧ (held 2).holdoverCount + 1 = (held 2).holdoverLimit ∧
    (held 1).state = .holdover ∧ (held 1).holdoverCount + 1 ≠ (held 1).holdoverLimit := by decide

theorem test_OutputFrameStart :
    let s := timed .running 0 (generator .free)
    (s.device.state = .running ∧ s.timing.state ≠ .stopped ∧ s.timing.nextStart = some 256000 ∧
      s.device.validatedArea = some 0) ∧
    (let x := withBays (bayAt .offered);
      x.device.state = .running ∧ x.reader.checker = none ∧ x.bayState 0 = .offered ∧ ∀ a < 0, x.bayState a ≠ .offered) ∧
    (∀ a, State.reset.bayState a ≠ .offered) ∧
    (let x := withLines (resetLine false);
      x.triggers.runMark = true) := by decide

theorem test_OutputFrameStartStopping :
    let s (stops : Nat) := timed .stopping stops (generator .free)
    ((s 0).device.state = .stopping ∧ (s 0).triggers.runMark = false ∧ (s 0).timing.state ≠ .stopped ∧
      (s 0).timing.nextStart = some 256000 ∧ (s 0).device.stopCount = 0) ∧
    ((s 1).device.state = .stopping ∧ (s 1).triggers.runMark = false ∧ (s 1).timing.state ≠ .stopped ∧
      (s 1).timing.nextStart = some 256000 ∧ (s 1).device.stopCount = 1) := by decide

theorem test_MissingStartDeadline :
    (waiting 0 none (some 384000) 0).state = .locked ∧ (waiting 0 none (some 384000) 0).deadline = some 384000 ∧
    (waiting 0 (some 400000) (some 384000) 0).pendingPlacement = some 400000 ∧
    0 + (waiting 0 none (some 384000) 384000).measured ≤ 384000 ∧
    384000 < 0 + (waiting 0 none (some 384000) 384001).measured := by decide

theorem test_SourceLinkFollowed :
    let c := capturing .capturing .filling .free .free
    resetCapture.enabled = false ∧ (c.enabled = true ∧ c.state = .capturing ∧ c.wc = 1 ∧ c.hc = 1) ∧
    (capturing .mismatch .free .free .free).state ≠ .capturing ∧
    (⟨some ⟨2, 1, .wide⟩⟩ : SourceLink).announcement.isSome = true := by decide

theorem test_InputFrameStartCapture :
    let c := capturing .capturing .filling .complete .reading
    (capturing .noSignal .free .free .free).state = .noSignal ∧ (capturing .mismatch .free .free .free).state = .mismatch ∧
    (capturing .waiting .complete .free .free).slotIn .free = some 1 ∧
    (c.state = .capturing ∧ c.pendingStart = false ∧ c.lines < c.hc ∧ c.discard.slotIn .free = some 0) ∧
    ({ c with lines := 1 } : Capture).hc ≤ 1 ∧ ({ c with lines := 1, pendingStart := true } : Capture).pendingStart = true := by
  decide

/-- A pixel of the fill in slot 0 of a canvas of one pixel. -/
def onePixel : FifoPixel := ⟨some 0, 0, 0, ⟨1, 2, 3⟩⟩

theorem test_LineReceived :
    let c := capturing .capturing .filling .free .free
    (withCapture c).capture.enabled = true ∧ (capturing .waiting .free .free .free).state ≠ .capturing ∧
    (c.state = .capturing ∧ c.lines < c.hc) ∧
    c.fifo.length + (([⟨1, 2, 3⟩] : List Pixel).take c.wc).length ≤ 32768 ∧ c.wc ≤ ([⟨1, 2, 3⟩] : List Pixel).length ∧
    ([] : List Pixel).length < c.wc ∧
    ¬ (List.replicate 32768 onePixel).length + (([⟨1, 2, 3⟩] : List Pixel).take c.wc).length ≤ 32768 := by
  refine ⟨by decide, by decide, by decide, by decide, by decide, by decide, ?_⟩
  rw [List.length_replicate]; decide

theorem test_FillDone :
    let c := { capturing .capturing .filling .complete .reading with lines := 1 }
    (withCapture c).capture.enabled = true ∧ (withCapture c).capture.fillWritten = true ∧ c.slotIn .filling = some 0 ∧
    (∀ m, (c.slots.get m).state = .filling → m = 0) ∧ c.pendingStart = false ∧
    ({ c with pendingStart := true } : Capture).fillWritten = true ∧
    lowest 3 (fun a => decide ((c.slots.get a).state = .free ∨ (c.slots.get a).state = .complete)) = some 1 := by decide

theorem test_HandoffAndDiscard :
    let c := capturing .capturing .filling .complete .reading
    (c.slotIn .complete).isSome = true ∧ (c.slotIn .reading).isSome = true ∧
    ((capturing .waiting .free .free .free).slotIn .complete).isSome = false ∧
    ((capturing .waiting .free .free .free).slotIn .reading).isSome = false := by decide

/-- A running device with the first bays given, the others EMPTY, an edge waiting, and the reader given. -/
def fourBays (a b c d : Bay) (reader : EditionReader) : State :=
  (((inState .running).setBays ⟨⟨[a, b, c, d, resetBay, resetBay, resetBay, resetBay], rfl⟩, none, 0, 0⟩).setReader
    reader).setTriggers { resetTriggers with edges := [⟨0, .rise, false⟩] }

theorem test_Exchange :
    State.reset.bayIn .staged = none ∧
    (fourBays resetBay (bayAt .staged) (bayAt .live) resetBay resetReader).bayIn .staged = some 1 ∧
    (fourBays resetBay (bayAt .staged) (bayAt .live) resetBay resetReader).bayIn .live = some 2 ∧
    (fourBays resetBay (bayAt .staged) resetBay resetBay resetReader).bayIn .live = none := by decide

/-- A bay record with a state byte, a go request and a withdraw. -/
def record (state : Nat) (go : Byte) (withdraw : Bool) : BayRecord := ⟨state, 16, 32, go, true, none, withdraw⟩

theorem test_BayScan :
    let s := fourBays resetBay (bayAt .rejected) (bayAt .released) (bayAt .live) resetReader
    ((s.bayState 0 = .empty ∧ s.bayState 1 = .rejected ∧ s.bayState 2 = .released) ∧ (record 1 0 false).state = 1) ∧
    ¬ (s.bayState 3 = .empty ∨ s.bayState 3 = .rejected ∨ s.bayState 3 = .released) ∧
    (record 1 0 false).withdraw = false ∧
    ((record 0 0 true).withdraw = true ∧ s.bayState 3 ∈ [BayState.offered, .checking, .ready, .loading, .live]) ∧
    ((withBays (bayAt .checking)).bayState 0 = .checking ∧ (withBays (bayAt .loading)).bayState 7 = .loading) ∧
    ((record 0 0 false).goRequest = (s.bays.bays.get 0).goTaken ∧ (record 0 255 false).goRequest ≠ (s.bays.bays.get 0).goTaken) := by
  decide

theorem test_GoGiven :
    (withBays (bayAt .ready)).bayState 7 = .ready ∧ (withBays (bayAt .offered)).bayState 0 = .offered ∧
    (withBays (bayAt .checking)).bayState 0 = .checking ∧
    (withBays (bayAt .live)).bayState 0 ∈ [BayState.loading, .staged, .live, .empty, .rejected, .released] := by decide

/-- A walk over bay 0 with a result. -/
def walked (r : WalkResult) : Walk := { startWalk resetLayout 0 0 0 none with result := some r }

theorem test_CheckDone :
    let s := fourBays (bayAt .checking) (bayAt .offered) resetBay resetBay ⟨some (walked .passed), none, none⟩
    let t := fourBays (bayAt .checking) resetBay resetBay resetBay ⟨some (walked (.rejected .range 3)), none, none⟩
    (s.device.state = .running ∧ s.reader.checker = some (walked .passed) ∧ (walked .passed).result = some .passed ∧
      s.bayState (walked .passed).bay = .checking) ∧
    lowest 8 (fun a => decide (s.bayState a = .offered)) = some 1 ∧
    (t.reader.checker = some (walked (.rejected .range 3)) ∧
      (walked (.rejected .range 3)).result = some (.rejected .range 3) ∧
      t.bayState (walked (.rejected .range 3)).bay = .checking) ∧
    ∀ a, t.bayState a ≠ .offered := by decide

theorem test_LoadDone :
    (fourBays (bayAt .loading) resetBay resetBay resetBay ⟨none, some (walked .passed), none⟩).reader.loader =
      some (walked .passed) ∧ (walked .passed).result = some .passed ∧
    (fourBays (bayAt .loading) resetBay resetBay resetBay ⟨none, some (walked (.rejected .changed 0)), none⟩).reader.loader =
      some (walked (.rejected .changed 0)) ∧
    (walked (.rejected .changed 0)).result = some (.rejected .changed 0) := by decide

theorem test_PassedEdge :
    let s (a b : BayState) := fourBays resetBay (bayAt a) (bayAt b) resetBay resetReader
    ((s .ready .live).device.state = .running ∧ (s .ready .live).triggers.edges = [⟨0, .rise, false⟩]) ∧
    ((s .ready .live).bays.bays.get 2).binding = some (0, .rise) ∧ (s .ready .live).bayState 2 = .live ∧
    ((∀ a, ((s .ready .offered).bays.bays.get a).binding = some (0, .rise) → a = 1 ∨ a = 2) ∧
      (s .ready .offered).bayState 1 = .ready ∧ (s .ready .offered).bayState 2 = .offered) ∧
    ((∀ a, ((s .checking .offered).bays.bays.get a).binding = some (0, .rise) → a = 1 ∨ a = 2) ∧
      (s .checking .offered).bayState 1 = .checking) ∧
    (∀ a, (s .released .rejected).bayState a ∈ [BayState.empty, .released, .rejected]) := by decide

/-- Edges of three lines, the first two of one moment: line 2's may be taken before line 1's, line 3's may not. -/
theorem test_PassedEdge_order :
    let first : Machine.PassedEdge := ⟨1, .rise, false⟩
    let second : Machine.PassedEdge := ⟨2, .fall, true⟩
    let later : Machine.PassedEdge := ⟨3, .rise, false⟩
    let s := (inState .running).setTriggers { resetTriggers with edges := [first, second, later] }
    (s.device.state = .running ∧ s.triggers.edges = first :: [second, later]) ∧
    (s.triggers.edges = [first] ++ second :: [later] ∧ (∀ x ∈ [first], x.line ≠ 2) ∧
      ∀ x ∈ ([first] ++ [second]).tail, x.together = true) ∧
    (∀ x ∈ s.triggers.edges.head?, x.line ≠ 3) ∧
    ∀ x ∈ s.triggers.edges.tail.takeWhile Machine.PassedEdge.together, x.line ≠ 3 := by decide

/-- A setup of a line. -/
def setup (combine : Combine) (filter : Nat) (edge : EdgeSetting) (holdOff : Nat) : LineSetup :=
  ⟨combine, .aspectWide, filter, edge, holdOff⟩

theorem test_CombinedLevel :
    let s (k : Combine) := withLines { resetLine true with setup := setup k 0 .both 0 }
    ((s .pin).triggers.lines.get 0).setup.combine = .pin ∧ ((s .alt).triggers.lines.get 1).setup.combine = .alt ∧
    ((s .pinOrAlt).triggers.lines.get 2).setup.combine = .pinOrAlt ∧
    ((s .pinAndAlt).triggers.lines.get 3).setup.combine = .pinAndAlt := by decide

/-- A line whose combined level differs from the delivered level. -/
def raised (edge : EdgeSetting) (active : Bool) : Line :=
  { resetLine true with
    setup := setup .pin 0 edge 5, filtered := true, combined := true, holdOffActive := active, levelDue := true }

theorem test_EdgeDelivered :
    ((raised .rise false).setup.edge = .rise ∧ (raised .rise false).combined = true) ∧
    ((raised .fall false).setup.edge ≠ .rise ∧ (raised .fall false).setup.edge ≠ .both) ∧
    ((raised .both false).combined ≠ (raised .both false).delivered ∧ (raised .both false).holdOffActive = false) ∧
    (raised .both true).holdOffActive = true := by decide

theorem test_LineEvents :
    let s := withLines (raised .both true)
    let t := withLines { raised .both true with delivered := true }
    s.triggers.runMark = true ∧ (s.triggers.lines.get 0).levelDue = true ∧
    ((s.triggers.lines.get 3).holdOffActive = true ∧ (s.triggers.lines.get 3).holdOffLeft = 0 ∧
      (s.triggers.lines.get 3).combined ≠ (s.triggers.lines.get 3).delivered) ∧
    ((t.triggers.lines.get 0).holdOffActive = true ∧ (t.triggers.lines.get 0).combined = (t.triggers.lines.get 0).delivered) := by
  decide

/-- A tick before which nothing is due, one before which a line's change is due, and the filters of both. -/
theorem test_SampleTick :
    (State.reset.triggers.runMark = false ∧ ∀ p, let port := State.reset.ports.get p;
      (port.state ≠ .off → port.presenceRun ≠ 100) ∧
      (port.state = .training → port.phase = some .attempt → port.attemptTimer ≠ 0) ∧
      (port.state = .training → port.phase = some .retryWait → port.retryTimer ≠ 0)) ∧
    (let s := withLines { resetLine true with setup := setup .pin 3 .both 0 };
      s.triggers.runMark = true ∧ 0 < (s.triggers.lines.get 0).setup.filter ∧
      ∀ l, let line := s.triggers.lines.get l;
        line.levelDue = false ∧ (line.holdOffActive = true → line.holdOffLeft ≠ 0)) ∧
    ((withLines (resetLine true)).triggers.runMark = true ∧
      ((withLines (resetLine true)).triggers.lines.get 0).setup.filter = 0) ∧
    ((withLines (raised .both true)).triggers.lines.get 0).levelDue = true := by decide

/-- A port in a state with its presence, its run of samples, its phase and its failures. -/
def portAt (k : LinkState) (presence : Bool) (run : Nat) (phase : Option TrainingPhase) (failures : Nat) : Port :=
  { resetPort presence 0 with state := k, presence := presence, presenceRun := run, phase := phase, failures := failures }

theorem test_PresenceChanged :
    (portAt .down false 100 none 3).presenceRun = 100 ∧ (portAt .down false 100 none 3).presence = false ∧
    ((withPort (portAt .down false 100 none 3)).ports.get 5).state = .down ∧
    ((withPort (portAt .up false 100 none 0)).ports.get 0).state ≠ .down ∧
    ((withPort (portAt .up true 100 none 0)).ports.get 0).presence = true := by decide

theorem test_Training :
    ((withPort (portAt .up true 0 none 0)).ports.get 0).state = .up ∧
    (∀ failures ∈ [0, 1, 2], let port := (withPort (portAt .training true 0 (some .attempt) failures)).ports.get 5;
      port.state = .training ∧ port.phase = some .attempt ∧ port.attemptTimer = 0 ∧
      (port.failures + 1 < 3 ∨ port.failures = 2)) ∧
    (let port := (withPort (portAt .training true 0 (some .retryWait) 1)).ports.get 0;
      port.state = .training ∧ port.phase = some .retryWait ∧ port.retryTimer = 0 ∧ port.phase ≠ some .attempt ∧
      port.attempt ≠ 1) := by
  decide

theorem test_EventsWithoutCause :
    (inState .running).device.state ≠ .idle ∧ State.reset.device.state = .idle ∧
    (inState .stopping).device.state = .stopping ∧ (inState .stopping).link.queue = [] ∧
    State.reset.readsReturned = false ∧ State.reset.timing.nextStart = none ∧ State.reset.timing.awaits = none ∧
    State.reset.source.announcement = none ∧ State.reset.capture.fillWritten = false ∧ State.reset.reader.checker = none ∧
    State.reset.reader.loader = none ∧ State.reset.triggers.edges = [] ∧ State.reset.triggers.runMark = false ∧
    (∀ p, (State.reset.ports.get p).state = .off) ∧ (∀ c, (State.reset.channels.get c).rendering = false) ∧
    State.reset.layout.rasterPixels ≤ 0 := by decide

/-- The state after reset with accesses of the link held. -/
def holding (queue : List LinkAccess) : State := State.reset.setLink { resetLink with queue := queue }

/-- After reset no requester waits but the host link, with a memory access first. -/
theorem test_EventsWithoutCause_noGrant : ∀ r, waits State.reset r = false := by
  intro r
  cases r with
  | fetcher c => revert c; decide
  | _ => decide

theorem test_LinkOrder :
    (([1] : List Byte) ≠ [] ∧ 2147483647 + ([1] : List Byte).length ≤ 2147483648) ∧
    2147483648 < 2147483648 + ([1] : List Byte).length ∧ (holding []).link.queue = [] ∧
    (holding [.register .ignored]).link.queue ≠ [] := by decide

theorem test_HostBurst :
    (let s := holding [.write 255 [1, 2], .register .start];
      nextGrant s = some .hostLink ∧ min 2 (256 - 255 % 256) < 2 ∧ s.link.queue = [.write 255 [1, 2], .register .start]) ∧
    (nextGrant (holding [.write 254 [1, 2]]) = some .hostLink ∧ min 2 (256 - 254 % 256) = 2) ∧
    nextGrant (holding [.read 255 2 [7]]) = some .hostLink ∧ nextGrant (holding [.read 256 2 [7]]) = some .hostLink ∧
    (LinkAccess.write 0 [1]).isMemory = true := by decide

/-- A walk at its first read. -/
def reading (result : Option LoadPlan) : Walk := startWalk ⟨640, 360, 0, 65536, 1, Arr.replicate 6 0⟩ 0 32 32 result

/-- The state after reset with a walk of the Checker presented. -/
def presenting (exponent share : Nat) : State :=
  (State.reset.setReader ⟨some (reading none), none, some .checker⟩).setArbiter
    { resetArbiter with exponent := exponent, share := share }

theorem test_GrantOrder :
    waits (withCapture { capturing .capturing .filling .free .free with fifo := [onePixel] }) .captureWriter = true ∧
    (waits (presenting 2 4) .captureWriter = false ∧ waits (presenting 2 4) .editionReader = true ∧
      (presenting 2 4).arbiter.share = 2 ^ (presenting 2 4).arbiter.exponent) ∧
    (presenting 2 3).arbiter.share ≠ 2 ^ (presenting 2 3).arbiter.exponent ∧
    (∀ c, waits (presenting 2 3) (.fetcher c) = false) ∧ waits (presenting 2 3) .hostLink = false ∧
    waits (holding [.read 0 1 []]) .hostLink = true ∧
    (nextGrant (returnedReads [] |>.setStatus ⟨[.write []], 0, emptyFault⟩)) = some .statusWriter := by decide

theorem test_GrantOrder_fetcher :
    (∀ c, waits (drawing .picture [] .up 0) (.fetcher c) = true) ∧
    ∀ d : Fin 6, (0 + 5 - 5) % 6 ≤ (d.val + 5 - (drawing .picture [] .up 0).arbiter.pointer.val) % 6 := by decide +kernel

theorem test_PartBursts :
    (let s := withCapture { capturing .capturing .filling .free .free with fifo := [onePixel] };
      s.capture.fifo = [onePixel] ∧ onePixel.slot = some 0 ∧
      (s.capture.slotBase + 0 * s.capture.slotSize + (onePixel.row * s.capture.wc + onePixel.column) * 4) % 4 = 0) ∧
    (nextGrant (drawing .picture [] .up 0) = some (.fetcher 0) ∧
      nextRow (drawing .picture [] .up 0) 0 = some ⟨0, []⟩ ∧
      (drawing .picture [] .up 0).capture.readingSlot = some 0) ∧
    (let s := drawing .picture [] .up 0;
      needsOf s 0 0 = (0, 0) :: (needsOf s 0 0).tail ∧ rowNeeded s 0 0 = true ∧ request s 0 [] = [⟨0, []⟩] ∧
      request s 0 [⟨0, []⟩] = [⟨0, []⟩] ∧ rowNeeded (drawing .picture [] .up 1) 0 0 = false ∧
      request (drawing .picture [] .up 1) 0 [] = []) ∧
    nextGrant (State.reset.setStatus ⟨[.write [(0, 1)]], 0, emptyFault⟩) = some .statusWriter ∧
    nextGrant (State.reset.setStatus ⟨[.startRead .header 0 48 true], 0, emptyFault⟩) = some .statusWriter := by
  decide +kernel

/-- The same walk where the first word of item 0 has an uncorrectable error. -/
def failing : State := (presenting 0 0).setMemory ⟨[], [(4, .uncorrectable)], 0⟩

theorem test_EditionBurst :
    nextGrant (presenting 0 0) = some .editionReader ∧ (presenting 0 0).reader.presented = some .checker ∧
    (presenting 0 0).reader.walk .checker = some (reading none) ∧ (reading none).read = some ⟨32, 4, []⟩ ∧
    (reading none).plan = none ∧ burstSize 3 32 4 < 4 ∧ 4 ≤ burstSize 256 32 4 ∧
    (nextGrant failing = some .editionReader ∧ failing.memory.errorAt (32 / 8) = some .uncorrectable) := by decide

theorem test_EditionTests :
    let l : Layout := ⟨640, 360, 0, 65536, 1, Arr.replicate 6 0⟩
    ¬ (32 ≤ 16 ∧ 16 ≤ 4096 ∧ 16 % 16 = 0) ∧ (32 ≤ 4096 ∧ 4096 ≤ 4096 ∧ 4096 % 16 = 0) ∧ 8 % 16 ≠ 0 ∧
    (l.arenaLow ≤ 61440 ∧ 61440 + 4096 ≤ l.arenaHigh) ∧ ¬ (61456 + 4096 ≤ l.arenaHigh) ∧
    ((2046 : Int) - (1024 - 1) * 2) % 8 = 0 ∧ ((2044 : Int) - (1024 - 1) * 2) % 8 ≠ 0 ∧
    ((2038 : Int) - (1024 - 1) * 2) % 8 = 0 ∧ ¬ ((0 : Int) ≤ 2038 - (1024 - 1) * 2) := by decide

/-- A walk in an arena of 64 KiB with a raster of 640 × 360, at an item index, its scope and its plan given. -/
def walking (index : Nat) (scope : Option (BitVec 6)) (plan : Option LoadPlan) : Walk :=
  { reading plan with index := index, scope := scope }

/-- The profile of that walk. -/
def layout640 : Layout := ⟨640, 360, 0, 65536, 1, Arr.replicate 6 0⟩

/-- An item of a kind code and a length in units, its fields following. -/
def itemOf (code units : Nat) (fields : List Byte) : List Byte := leBytes 2 code ++ leBytes 2 units ++ fields

/-- A MESH item with spacing 32 that covers the raster: 21 × 13 points in GEOMETRY format, its last point at an address. -/
def meshItem (last : Nat) : List Byte :=
  itemOf 3 1 ([1, 0] ++ leBytes 2 21 ++ leBytes 2 13 ++ leBytes 2 272 ++ leBytes 4 last)

theorem test_ItemTests :
    let judged (index : Nat) (scope : Option (BitVec 6)) (item : List Byte) : RejectReason ⊕ ItemAction :=
      judgeWhole layout640 (walking index scope none) item
    judged 1 none (itemOf 14 0 []) = .inl .length ∧ judged 1 none (itemOf 14 3 []) = .inl .length ∧
    judged 1 none (itemOf 14 2 []) = .inr .nothing ∧ judged 1 none (itemOf 9 1 []) = .inl .kind ∧
    judged 1 none (itemOf 4 1 []) = .inl .length ∧ judged 0 none (itemOf 14 1 []) = .inl .header ∧
    judged 1 none (itemOf 1 1 []) = .inl .header ∧
    judged 0 none (itemOf 1 1 (leBytes 4 9 ++ leBytes 2 640 ++ leBytes 2 360)) = .inr (.headTag 9) ∧
    judged 0 none (itemOf 1 1 (leBytes 4 9 ++ leBytes 2 641 ++ leBytes 2 360)) = .inl .raster ∧
    judged 1 none (itemOf 2 1 [64]) = .inl .select ∧ judged 1 none (itemOf 2 1 [2]) = .inr (.openScope 0) ∧
    judged 1 none (itemOf 6 1 []) = .inl .select ∧ judged 1 (some 0) (itemOf 6 1 []) = .inr .nothing ∧
    judged 1 (some 1) (itemOf 6 1 []) = .inr (.takeValues 1 .uplift) ∧
    judged 1 (some 0) (meshItem 2175) = .inl .align ∧ judged 1 (some 0) (meshItem 2176) = .inr .nothing ∧
    judged 1 (some 1) (meshItem 65536) = .inl .bounds ∧
    judged 1 (some 1) (meshItem 2176) = .inr (.takeMesh 1 (parseMesh (meshItem 2176))) ∧
    judged 1 none (itemOf 8 1 (leBytes 4 1022 ++ leBytes 4 2046)) = .inl .tableSize ∧
    judged 1 none (itemOf 15 1 []) = .inr .finish := by decide +kernel

/-- The plan of a load whose summary records nothing. -/
def emptyPlan : LoadPlan := planOf emptySummary

theorem test_ItemsTaken :
    (let w := walking 1 (some 1) none;
      w.plan = none ∧ w.length ≤ 16 + 16 * 1 ∧ w.offset + 16 * w.units < w.length) ∧
    ((walking 0 none (some emptyPlan)).plan = some emptyPlan ∧ emptyPlan.recorded.tag = 0 ∧ emptyPlan.recorded.tag ≠ 9) ∧
    meshChanged emptyPlan.recorded 1 (parseMesh (meshItem 2176)) = true ∧
    meshChanged emptyPlan.recorded 0 (parseMesh (meshItem 2176)) = false ∧
    (let m : MeshItem := ⟨0, 0, 1, 1, 1, 0⟩;
      meshContents (parsePoints m (leBytes 4 524288 ++ leBytes 4 0)) 1 1 = some .range ∧
      meshContents (parsePoints m (leBytes 4 524287 ++ leBytes 4 0)) 1 1 = none) ∧
    (let select := itemOf 2 1 [1];
      let w := walking 1 none none;
      w.phase = .header ∧ 0 < min 5 (w.length - w.offset) - 4 ∧ field select 0 1 = 2 ∧ min 5 (4 - w.offset) - 4 = 0 ∧
      judgeWhole layout640 w select = .inr (.openScope 1) ∧ judgeWhole layout640 w (itemOf 2 1 [0]) = .inl .select) ∧
    (let w := { walking 1 (some 1) (some emptyPlan) with phase := .encodeTable };
      w.plan = some emptyPlan ∧ w.phase = .encodeTable ∧ w.scope = some 1) := by decide +kernel

/-- After a header the named contents of the item alone are read: the mask of a SELECT, 18 bytes of a MATRIX, 34 of a RAMP,
nothing of a PAD (the layouts of R193). -/
theorem test_contents_read :
    let w : Walk := { walking 1 none none with length := 64 }
    [2, 4, 5, 14].map w.contentsBytes = [1, 18, 34, 0] := by decide

/-- A capture burst ends with a word: from a word's start two pixels at least, from its middle one (R173). -/
theorem test_capture_burst_ends_with_word :
    pixelsInBurst 4 0 = 2 ∧ pixelsInBurst 256 0 = 64 ∧ pixelsInBurst 256 4 = 63 ∧ pixelsInBurst 12 4 = 3 ∧
    pixelsInBurst 8 4 = 1 ∧ pixelsInBurst 256 252 = 1 := by decide

theorem test_BankWrites :
    blankBank.pool.length = 65536 ∧ 65535 + ([blankPoint] : List MeshPoint).length ≤ 65536 := by
  constructor
  · rw [blankBank]; exact List.length_replicate
  · decide

/-- Frame memory with the two errors. -/
def erring : Memory := ⟨[(8, 5)], [(0, .single), (1, .uncorrectable)], 0⟩

theorem test_MemoryAccess :
    0 < 16 ∧ (∀ w ∈ Finset.Icc (0 / 8) ((0 + 8 - 1) / 8), erring.errorAt w ≠ some .uncorrectable) ∧
    (1 ∈ Finset.Icc (0 / 8) ((0 + 16 - 1) / 8) ∧ erring.errorAt 1 = some .uncorrectable ∧
      ∀ v ∈ Finset.Icc (0 / 8) ((0 + 16 - 1) / 8), v < 1 → erring.errorAt v ≠ some .uncorrectable) ∧
    ((([(9, 1), (2147483647, 2)] : List (Nat × Byte)).map Prod.fst).Nodup ∧ 2147483647 < 2147483648) ∧
    ((∀ c ∈ ([(9, 1)] : List (Nat × Byte)), c.1 ≠ 8) ∧ ∃ c ∈ ([(9, 1)] : List (Nat × Byte)), c.1 / 8 = 8 / 8) ∧
    (∀ c ∈ ([(9, 1)] : List (Nat × Byte)), c.1 / 8 ≠ 0) ∧
    (∃ i < 8, ∀ c ∈ ([(9, 1)] : List (Nat × Byte)), c.1 ≠ 8 * 1 + i) := by decide

theorem test_FaultRecordRules :
    let held : FaultRecord := { emptyFault with occupied := true, sequence := 65535, kind := some .memory }
    emptyFault.occupied = false ∧ (held.occupied = true ∧ held.kind = some .memory) ∧
    FaultKind.code .table < FaultKind.code .memory ∧ FaultKind.code .memory ≤ FaultKind.code .memory ∧
    (65535 ≠ 0 ∧ 65535 = held.sequence.toNat) ∧ 65534 ≠ held.sequence.toNat := by decide

theorem test_RenderPixel :
    let s := drawing .flat [] .up 0
    let t := drawing .flat [.meshMark 0] .up 0
    ((s.channels.get 0).rendering = true ∧ (s.channels.get 0).nextPixel < s.layout.rasterPixels ∧
      dataArrived s 0 = true ∧ (nextValue s 0).parityFailed = false) ∧
    (dataArrived t 0 = true ∧ (nextValue t 0).parityFailed = true) := by decide +kernel

theorem test_PixelDue :
    let s := drawing .flat [] .up 0
    let t := drawing .picture [] .up 0
    ((s.ports.get 0).position < s.layout.rasterPixels ∧ (s.ports.get 0).state = .up ∧
      s.layout.channelOf 0 = some 0 ∧ (s.channels.get 0).rendering = true ∧ (s.channels.get 0).ready = [] ∧
      dataArrived s 0 = true) ∧
    (((drawing .flat [] .down 0).ports.get 0).state ≠ .up) ∧
    ((t.channels.get 0).ready = [] ∧ dataArrived t 0 = false) ∧ s.layout.channelOf 1 = none ∧
    (let ahead := modifyChannel 0 (fun ch => { ch with ready := [⟨⟨1, 2, 3⟩, true⟩] }) s;
      (ahead.channels.get 0).ready = ⟨⟨1, 2, 3⟩, true⟩ :: [] ∧ (ahead.channels.get 0).rendering = true) := by decide +kernel

theorem test_PixelPaths :
    let view (mode : Mode) : ChannelView := ⟨mode, ⟨1, 2, 3⟩, false⟩
    let b := meshBank []
    let flat : Codes := ⟨1, 2, 3⟩
    (view .mute).mode = .mute ∧ TableWord.meshMark 0 ∈ (meshBank [.meshMark 0]).bad ∧
    ((b.channels.get 0).meshPresent = true ∧ TableWord.meshMark 0 ∉ b.bad ∧ TableWord.geometry 0 ∉ b.bad) ∧
    TableWord.geometry 0 ∈ (meshBank [.geometry 0]).bad ∧
    (∃ w ∈ cornerWords (meshBank [.point 0]) 0 0 0, w ∈ (meshBank [.point 0]).bad) ∧
    (cornersAt b 0 0 0).isVoid = false ∧
    (cornersAt { b with pool := [{ blankPoint with void := true }] } 0 0 0).isVoid = true ∧
    (∃ w ∈ colourWords (meshBank [.matrix 0 0]) 0 (coordinatesAt b 0 0 0) flat, w ∈ (meshBank [.matrix 0 0]).bad) ∧
    ∀ w ∈ colourWords b 0 (coordinatesAt b 0 0 0) flat, w ∉ b.bad := by decide +kernel

theorem test_SampleAndBlend : 63 ≤ 63 ∧ 65535 ≤ 65535 ∧ 4096 ≤ 4096 ∧ ∀ q ∈ (⟨0, 1023, 1023, 0⟩ : Corners Nat).toList, q ≤ 1023 := by
  decide

theorem test_PixelStages :
    let cell : Cell := ⟨64, 0, 0, 63, 63⟩
    (0 < cell.spacing ∧ cell.spacing % 2 = 0 ∧ cell.fx < cell.spacing ∧ cell.fy < cell.spacing) ∧
    (∀ a ∈ (⟨-5, 7, 0, 7⟩ : Corners Int).toList, -5 ≤ a ∧ a ≤ 7) ∧ (63 < 64 ∧ 64 % 2 = 0) ∧ 4095 < 4096 := by decide

/-! ## The invariants hold of the state after reset, whose step is the idle one -/

theorem test_reset_step : step State.reset = .next State.reset := by rw [step]; rfl

theorem test_RegistersAndMemoryKept : State.reset.RegistersOk ∧ State.reset.MemoryOk := by
  constructor
  · unfold State.RegistersOk; decide
  · unfold State.MemoryOk; decide

theorem test_SlotsAndCountsKept :
    State.reset.capture.SlotsOk ∧ State.reset.device.StopOk ∧ State.reset.arbiter.ShareOk ∧ State.reset.capture.FifoOk ∧
    State.reset.status.fault.Ok ∧ (∀ p, (State.reset.ports.get p).CountsOk) ∧
    ∀ c, (State.reset.channels.get c).WindowOk := by
  refine ⟨⟨?_, by decide⟩, by unfold Device.StopOk; decide, by unfold Arbiter.ShareOk; decide,
    by unfold Capture.FifoOk; decide, ⟨by decide, by decide, by decide⟩, fun p => ?_, fun c => ?_⟩
  · intro state a b hs ha; exact absurd (ha.symm.trans ((by decide : ∀ x, (State.reset.capture.slots.get x).state = .free) a)) hs
  · constructor <;> revert p <;> decide
  · unfold Channel.WindowOk; revert c; decide

theorem test_SpacingKept : State.reset.ClockOk ∧ State.reset.timing.SpacedOk := by
  refine ⟨by unfold State.ClockOk; decide, ⟨by decide, ?_, ?_, by decide⟩⟩ <;>
    intro s n h <;> exact absurd h (by simp [State.reset, resetTiming])

theorem test_SpacingKept_next :
    (generator .free).state ≠ .stopped ∧ (generator .free).latestStart = some 0 ∧
    ((generator .free).startAt 256000).latestStart = some 256000 ∧
    ((generator .free).startAt 256000).frame ≠ (generator .free).frame := by decide

theorem test_TriggersKept : State.reset.TriggersOk := by
  constructor <;> decide

theorem test_BaysAndBanksKept : State.reset.BaysOk ∧ State.reset.BanksOk := by
  refine ⟨⟨by decide, ?_, ?_, by decide, by decide, by decide⟩, fun _ => ⟨rfl, rfl⟩⟩ <;>
    intro b <;> simp [State.reset, State.bayState, resetBays, resetReader, resetBay]

theorem test_RenderingAndCodesKept : State.reset.RenderingOk ∧ State.reset.CodesOk := by
  have codes : ∀ c, ∀ e ∈ (blankBank.channels.get c).encode, e ≤ 1023 := by decide +kernel
  refine ⟨⟨?_, by decide, by decide⟩, ⟨codes, codes, ?_, ?_, ?_⟩⟩
  · unfold Layout.PortsOk; decide
  · unfold codesOk; decide
  · intro c x hx; revert hx; simp [State.reset, resetChannel]
  · unfold codesOk; decide

end Sys2Proof.Tests
end

namespace Sys2Proof.Machine

-- The proofs below are checked one after another: a theorem that waits for another in a thread of its own would hold that
-- thread's stack, and many at once are more than the memory the text is checked with.
set_option Elab.async false

/-! ## The pixel arithmetic, stage by stage (R3 to R21) -/

/-- A rounded quotient lies between two bounds where the dividend lies between their products with the divisor (R3). -/
theorem roundedDiv_mem_Icc {d sum low high : Int} (hd : 0 < d) (hlow : low * d ≤ sum) (hhigh : sum ≤ high * d) :
    low ≤ (sum + d / 2) / d ∧ (sum + d / 2) / d ≤ high := by
  constructor
  · exact (Int.le_ediv_iff_mul_le hd).mpr (by omega)
  · have : (sum + d / 2) / d < high + 1 := (Int.ediv_lt_iff_lt_mul hd).mpr (by rw [add_mul]; omega)
    omega

/-- A weighted sum with four weights that are not negative lies between the bounds of its terms times the sum of the
weights. -/
theorem weighted_mem_Icc {w₀ w₁ w₂ w₃ d low high : Int} {p : Corners Int} (h₀ : 0 ≤ w₀) (h₁ : 0 ≤ w₁) (h₂ : 0 ≤ w₂)
    (h₃ : 0 ≤ w₃) (hd : w₀ + w₁ + w₂ + w₃ = d) (h : ∀ a ∈ p.toList, low ≤ a ∧ a ≤ high) :
    low * d ≤ w₀ * p.c00 + w₁ * p.c10 + w₂ * p.c01 + w₃ * p.c11 ∧
      w₀ * p.c00 + w₁ * p.c10 + w₂ * p.c01 + w₃ * p.c11 ≤ high * d := by
  simp only [Corners.toList, List.mem_cons, List.not_mem_nil, or_false, forall_eq_or_imp, forall_eq] at h
  obtain ⟨⟨l0, u0⟩, ⟨l1, u1⟩, ⟨l2, u2⟩, ⟨l3, u3⟩⟩ := h
  subst hd
  constructor
  · linarith [mul_le_mul_of_nonneg_left l0 h₀, mul_le_mul_of_nonneg_left l1 h₁, mul_le_mul_of_nonneg_left l2 h₂,
      mul_le_mul_of_nonneg_left l3 h₃]
  · linarith [mul_le_mul_of_nonneg_left u0 h₀, mul_le_mul_of_nonneg_left u1 h₁, mul_le_mul_of_nonneg_left u2 h₂,
      mul_le_mul_of_nonneg_left u3 h₃]

/-- The four weights of an offset in each axis of a square sum to the area of the square (R6, R12). -/
theorem weights_sum {R : Type} [CommRing R] (s x y : R) :
    (s - x) * (s - y) + x * (s - y) + (s - x) * y + x * y = s * s := by ring

/-- The floor division of the bilinear mean (R3, R6). -/
theorem bilinear_floor (cell : Cell) (p : Corners Int) (h : 0 < cell.spacing) :
    let s : Int := cell.spacing
    let sum := (s - cell.fx) * (s - cell.fy) * p.c00 + cell.fx * (s - cell.fy) * p.c10 + (s - cell.fx) * cell.fy * p.c01 +
      cell.fx * cell.fy * p.c11
    s * s * bilinear cell p ≤ sum + s * s / 2 ∧ sum + s * s / 2 < s * s * (bilinear cell p + 1) := by
  intro s sum
  have hs : 0 < s * s := by positivity
  exact ⟨Int.mul_ediv_self_le hs.ne', by rw [mul_add, mul_one]; exact Int.lt_mul_ediv_self_add hs⟩

/-- The bilinear mean lies within the range of the corner values (R6). -/
theorem bilinear_mem_Icc (cell : Cell) (p : Corners Int) (low high : Int) (h : 0 < cell.spacing)
    (hx : cell.fx < cell.spacing) (hy : cell.fy < cell.spacing) (hp : ∀ a ∈ p.toList, low ≤ a ∧ a ≤ high) :
    low ≤ bilinear cell p ∧ bilinear cell p ≤ high := by
  have hs : (0 : Int) < cell.spacing := by exact_mod_cast h
  have hfx : (0 : Int) ≤ cell.spacing - cell.fx := by omega
  have hfy : (0 : Int) ≤ cell.spacing - cell.fy := by omega
  obtain ⟨hlow, hhigh⟩ := weighted_mem_Icc (p := p) (mul_nonneg hfx hfy) (mul_nonneg (Int.natCast_nonneg cell.fx) hfy)
    (mul_nonneg hfx (Int.natCast_nonneg cell.fy)) (mul_nonneg (Int.natCast_nonneg cell.fx) (Int.natCast_nonneg cell.fy))
    (weights_sum _ _ _) hp
  exact roundedDiv_mem_Icc (mul_pos hs hs) hlow hhigh

/-- A coordinate a whole pixel or more outside the canvas has no place in it (R8). -/
theorem canvasTest_outside {u : Int} {n : Nat} (h : u ≤ -64 ∨ (n : Int) * 64 ≤ u) : canvasTest u n = none := by
  simp [canvasTest, h]

/-- Within a pixel of the canvas a coordinate is clamped to it (R8). -/
theorem canvasTest_inside {u : Int} {n : Nat} (hlow : -64 < u) (hhigh : u < (n : Int) * 64) :
    canvasTest u n = some (min (max u 0) (((n : Int) - 1) * 64)).toNat := by
  rw [canvasTest, if_neg (by omega)]

/-- The zones of stage 3: outside, clamped at the left or top edge, inside, clamped at the right or bottom edge (R8). -/
theorem canvasTest_zones (u : Int) (n : Nat) (hn : 0 < n) :
    (u ≤ -64 ∨ (n : Int) * 64 ≤ u → canvasTest u n = none) ∧
    (-64 < u → u < 0 → canvasTest u n = some 0) ∧
    (0 ≤ u → u ≤ ((n : Int) - 1) * 64 → canvasTest u n = some u.toNat) ∧
    (((n : Int) - 1) * 64 < u → u < (n : Int) * 64 → canvasTest u n = some ((n - 1) * 64)) := by
  refine ⟨canvasTest_outside, fun hl hh => ?_, fun hl hh => ?_, fun hl hh => ?_⟩ <;>
    rw [canvasTest_inside (by omega) (by omega)] <;> congr 1 <;> omega

/-- The floor division of a matrix row (R3, R15). -/
theorem matrixRow_floor (m : List Int) (row : Nat) (l : RGB Nat) :
    let sum := m.getD (3 * row) 0 * l.r + m.getD (3 * row + 1) 0 * l.g + m.getD (3 * row + 2) 0 * l.b
    4096 * matrixRow m row l ≤ sum + 2048 ∧ sum + 2048 < 4096 * (matrixRow m row l + 1) := by
  intro sum
  have : matrixRow m row l = (sum + 2048) / 4096 := rfl
  omega

/-- The clamp to 0 to 65,535 (R15). -/
theorem clampLinear_cases (a : Int) :
    (a < 0 → clampLinear a = 0) ∧ (0 ≤ a → a ≤ 65535 → (clampLinear a : Int) = a) ∧
      (65535 < a → clampLinear a = 65535) := by
  simp only [clampLinear]
  omega

/-- The clamp changes just the values outside 0 to 65,535 (R16). -/
theorem clampLinear_ne_iff (a : Int) : (clampLinear a : Int) ≠ a ↔ a < 0 ∨ 65535 < a := by
  simp only [clampLinear]
  omega

/-- A pixel is clipped just where the clamp changes a component (R16). -/
theorem clippedBy_iff (sums : RGB Int) : clippedBy sums = true ↔ ∃ a ∈ sums.toList, ((clampLinear a : Nat) : Int) ≠ a := by
  simp only [clippedBy, List.any_eq_true, decide_eq_true_eq, clampLinear_ne_iff]

/-- The ramp below its last weight interpolates, and at it takes the last entry (R18). -/
theorem rampValue_cases (ramp : List Nat) (w : Nat) :
    (w < 4096 → rampValue ramp w = Machine.segment (ramp.getD (w / 256) 0) (ramp.getD (w / 256 + 1) 0) (w % 256) 256) ∧
      rampValue ramp 4096 = ramp.getD 16 0 := by
  constructor
  · intro hw
    have hk : w / 256 ≠ 16 := by omega
    have hf : w - 256 * (w / 256) = w % 256 := by omega
    simp only [rampValue, if_neg hk, hf]
  · rfl

/-- The encode interpolation, its offset a remainder (R21). -/
theorem encodeValue_eq (e : List Nat) (lo : Nat) :
    encodeValue e lo = Machine.segment (e.getD (lo / 64) 0) (e.getD (lo / 64 + 1) 0) (lo % 64) 64 := by
  have hf : lo - 64 * (lo / 64) = lo % 64 := by omega
  rw [encodeValue, hf]

/-- Settles O54, stage by stage. -/
theorem pixelStages : Obligations.PixelStages :=
  ⟨fun cell p low high hs _ hx hy =>
      have hfloor := bilinear_floor cell p hs
      ⟨hfloor.1, hfloor.2, bilinear_mem_Icc cell p low high hs hx hy⟩,
    canvasTest_zones, matrixRow_floor, clampLinear_cases, clippedBy_iff, segment_between, rampValue_cases,
    fun _ _ _ => rfl, encodeValue_eq⟩

/-! ## Stage 4 and the blend (R12, R19) -/

/-- The four sampling weights sum to 4096 (R12). -/
theorem sampleWeights_sum {au av : Nat} (hu : au ≤ 63) (hv : av ≤ 63) :
    (64 - au) * (64 - av) + au * (64 - av) + (64 - au) * av + au * av = 4096 := by
  zify [show au ≤ 64 by omega, show av ≤ 64 by omega]
  rw [weights_sum]
  norm_num

/-- The sample of four codes in 0 to 1023 lies in 0 to 1023 (R12). -/
theorem sampleMean_le {au av : Nat} {p : Corners Nat} (hu : au ≤ 63) (hv : av ≤ 63) (hp : ∀ q ∈ p.toList, q ≤ 1023) :
    sampleMean au av p ≤ 1023 := by
  have hsum := sampleWeights_sum hu hv
  simp only [Corners.toList, List.mem_cons, List.not_mem_nil, or_false, forall_eq_or_imp, forall_eq] at hp
  obtain ⟨h0, h1, h2, h3⟩ := hp
  have b0 := Nat.mul_le_mul_left ((64 - au) * (64 - av)) h0
  have b1 := Nat.mul_le_mul_left (au * (64 - av)) h1
  have b2 := Nat.mul_le_mul_left ((64 - au) * av) h2
  have b3 := Nat.mul_le_mul_left (au * av) h3
  rw [sampleMean]
  omega

/-- The blended value stays within 65,535 (R19). -/
theorem blend_le {beta l : Nat} (hl : l ≤ 65535) (hb : beta ≤ 4096) : blend beta l ≤ 65535 := by
  have : l * beta ≤ 65535 * 4096 := Nat.mul_le_mul hl hb
  rw [blend]
  omega

/-- Settles O53: the weights, the bounds and the ends of the blend. -/
theorem sampleAndBlend : Obligations.SampleAndBlend := by
  intro au av p beta l canvas place hu hv hl hb
  have hsum := sampleWeights_sum hu hv
  refine ⟨rfl, rfl, hsum, ?_, ?_, ?_, ?_, sampleMean_le hu hv, rfl, blend_le hl hb, ?_, ?_⟩
  · omega
  · omega
  · omega
  · omega
  · rw [blend]; omega
  · rw [blend]; omega

/-! ## The paths of a pixel (R2, R22, R23, R25) -/

section
variable (view : ChannelView) (b : Bank) (c : Fin 6) (wc hc x y : Nat) (canvas : Option (Nat × Nat → Codes))
  (source : Coordinates → Codes)

/-- A read fails parity just where one of its words is bad (R42). -/
theorem anyBad_iff (ws : List TableWord) : b.anyBad ws = true ↔ ∃ w ∈ ws, w ∈ b.bad := by
  simp [Bank.anyBad]

/-- One word fails parity just where it is bad (R42). -/
theorem anyBad_singleton (w : TableWord) : b.anyBad [w] = true ↔ w ∈ b.bad := by
  simp [anyBad_iff]

/-- No word of a read is bad just where the read is sound (R42). -/
theorem anyBad_eq_false_iff (ws : List TableWord) : b.anyBad ws = false ↔ ∀ w ∈ ws, w ∉ b.bad := by
  simp [Bank.anyBad]

/-- Quarantine and MUTE give code 0 before any read (R2, R22, R43). -/
theorem pixelValue_of_quiet (h : view.quarantined = true ∨ view.mode = .mute) :
    pixelValue view b c wc hc canvas x y = plainPixel codeZero := by
  rw [pixelValue]
  split
  · rfl
  · rw [if_pos (h.resolve_left (by assumption))]

/-- A mesh-present mark that fails parity ends the pixel (R25). -/
theorem pixelValue_of_badMark (hq : view.quarantined = false) (hm : view.mode ≠ .mute)
    (h : TableWord.meshMark c ∈ b.bad) : pixelValue view b c wc hc canvas x y = failedPixel := by
  rw [pixelValue, if_neg (by simp [hq]), if_neg hm, if_pos ((anyBad_singleton b _).mpr h)]

/-- A channel without a mesh gives code 0 (R2). -/
theorem pixelValue_of_noMesh (hp : (b.channels.get c).meshPresent = false) (h : TableWord.meshMark c ∉ b.bad) :
    pixelValue view b c wc hc canvas x y = plainPixel codeZero := by
  by_cases hq : view.quarantined = true ∨ view.mode = .mute
  · exact pixelValue_of_quiet view b c wc hc x y canvas hq
  · obtain ⟨hq, hm⟩ := not_or.mp hq
    rw [pixelValue, if_neg hq, if_neg hm, if_neg (by simpa [anyBad_singleton] using h), if_neg (by simp [hp])]

/-- A channel that is drawn takes the path of its mode (R2). -/
theorem pixelValue_of_drawn (hq : view.quarantined = false) (hp : (b.channels.get c).meshPresent = true)
    (h : TableWord.meshMark c ∉ b.bad) (hm : view.mode ≠ .mute) :
    pixelValue view b c wc hc canvas x y = meshPixel view b c x y (pictureSource wc hc canvas) := by
  rw [pixelValue, if_neg (by simp [hq]), if_neg hm, if_neg (by simpa [anyBad_singleton] using h), if_pos hp]

/-- A geometry word that fails parity ends the pixel (R25). -/
theorem meshPixel_of_badGeometry (h : TableWord.geometry c ∈ b.bad) : meshPixel view b c x y source = failedPixel := by
  rw [meshPixel, if_pos ((anyBad_singleton b _).mpr h)]

/-- A pixel of GRID mode (R23). -/
theorem meshPixel_of_grid (h : TableWord.geometry c ∉ b.bad) (hm : view.mode = .grid) :
    meshPixel view b c x y source = gridPixel view.flat (b.channels.get c).spacing x y := by
  rw [meshPixel, if_neg (by simpa [anyBad_singleton] using h), hm]

/-- The source codes of a pixel in PICTURE or FLAT mode: the flat codes, or what the picture gives (R2). -/
def modeSource (picture : Coordinates → Codes) (p : Coordinates) : Codes :=
  if view.mode = .flat then view.flat else picture p

/-- In PICTURE and FLAT mode the pixel is that of its cell, from the source codes of the mode (R2). -/
theorem meshPixel_of_picture (h : TableWord.geometry c ∉ b.bad) (hm : view.mode = .picture ∨ view.mode = .flat) :
    meshPixel view b c x y source = cellPixel b c x y (modeSource view source) := by
  rw [meshPixel, if_neg (by simpa [anyBad_singleton] using h)]
  rcases hm with hm | hm
  · have : modeSource view source = source := funext fun p => by simp [modeSource, hm]
    rw [this, hm]
  · have : modeSource view source = fun _ => view.flat := funext fun p => by simp [modeSource, hm]
    rw [this, hm]

/-- A corner word that fails parity ends the pixel (R25). -/
theorem cellPixel_of_badCorner (h : ∃ w ∈ cornerWords b c x y, w ∈ b.bad) : cellPixel b c x y source = failedPixel := by
  rw [cellPixel, if_pos ((anyBad_iff b _).mpr h)]

/-- A void pixel gives code 0 (R5). -/
theorem cellPixel_of_void (h : ∀ w ∈ cornerWords b c x y, w ∉ b.bad) (hv : (cornersAt b c x y).isVoid = true) :
    cellPixel b c x y source = plainPixel codeZero := by
  rw [cellPixel, if_neg (by simpa [anyBad_iff] using h), if_pos hv]

/-- A pixel of an active cell is computed at its coordinates from its source codes (R2). -/
theorem cellPixel_of_active (h : ∀ w ∈ cornerWords b c x y, w ∉ b.bad) (hv : (cornersAt b c x y).isVoid = false) :
    cellPixel b c x y source = activePixel b c (coordinatesAt b c x y) (source (coordinatesAt b c x y)) := by
  rw [cellPixel, if_neg (by simpa [anyBad_iff] using h), if_neg (by simp [hv])]

/-- A word of stages 5 to 8 that fails parity ends the pixel (R25). -/
theorem activePixel_of_bad (p : Coordinates) (code : Codes) (h : ∃ w ∈ colourWords b c p code, w ∈ b.bad) :
    activePixel b c p code = failedPixel := by
  rw [activePixel, if_pos ((anyBad_iff b _).mpr h)]

/-- With its words sound an active pixel is what stages 5 to 8 make of its source codes (R2, R14 to R21). -/
theorem activePixel_of_sound (p : Coordinates) (code : Codes) (h : ∀ w ∈ colourWords b c p code, w ∉ b.bad) :
    activePixel b c p code =
      ⟨codedPixel b (b.channels.get c) p code, pixelClips b (b.channels.get c) code, false⟩ := by
  rw [activePixel, if_neg (by simpa [anyBad_iff] using h)]

end

/-- Settles O52: the first row of R2 that holds decides the path, and the first read that fails parity ends it. -/
theorem pixelPaths : Obligations.PixelPaths := by
  intro view b c wc hc x y canvas t value black failed place drawn sound source
  have hsource : modeSource view (pictureSource wc hc canvas) place = source := rfl
  have notMute : view.mode = .picture ∨ view.mode = .flat → view.mode ≠ .mute := by
    rintro (h | h) <;> simp [h]
  have meshed : drawn → view.mode ≠ .mute → value = meshPixel view b c x y (pictureSource wc hc canvas) :=
    fun ⟨hq, hp, hm⟩ hn => pixelValue_of_drawn view b c wc hc x y canvas hq hp hm hn
  have celled : drawn → TableWord.geometry c ∉ b.bad → view.mode = .picture ∨ view.mode = .flat →
      value = cellPixel b c x y (modeSource view (pictureSource wc hc canvas)) :=
    fun hd hg hm => (meshed hd (notMute hm)).trans (meshPixel_of_picture view b c x y _ hg hm)
  refine ⟨pixelValue_of_quiet view b c wc hc x y canvas, pixelValue_of_badMark view b c wc hc x y canvas,
    pixelValue_of_noMesh view b c wc hc x y canvas, ?_, ?_, ?_, ?_, ?_⟩
  · intro hd hm hg
    exact (meshed hd hm).trans (meshPixel_of_badGeometry view b c x y _ hg)
  · intro hd hg hm
    rw [meshed hd (by simp [hm]), meshPixel_of_grid view b c x y _ hg hm]
    simp only [gridPixel, gridDot, decide_eq_true_eq]
    split <;> rfl
  · intro hd hm hw
    by_cases hg : TableWord.geometry c ∈ b.bad
    · exact (meshed hd (notMute hm)).trans (meshPixel_of_badGeometry view b c x y _ hg)
    · exact (celled hd hg hm).trans (cellPixel_of_badCorner b c x y _ hw)
  · rintro ⟨hd, hg, hw⟩ hm hv
    exact (celled hd hg hm).trans (cellPixel_of_void b c x y _ hw hv)
  · rintro ⟨hd, hg, hw⟩ hm hv
    rw [celled hd hg hm, cellPixel_of_active b c x y _ hw hv, hsource]
    exact ⟨activePixel_of_bad b c place source, activePixel_of_sound b c place source⟩

/-! ## Codes in 0 to 1023 (R21, R38) -/

/-- Code 0 lies in 0 to 1023. -/
theorem codesOk_codeZero : codesOk codeZero := by
  simp [codesOk, codeZero]

/-- An entry of a table, 0 past its end, keeps the bound of the entries. -/
theorem getD_le {l : List Nat} {k n : Nat} (h : ∀ e ∈ l, e ≤ k) : l.getD n 0 ≤ k := by
  by_cases hn : n < l.length
  · rw [List.getD_eq_getElem _ _ hn]
    exact h _ (List.getElem_mem hn)
  · rw [List.getD_eq_default _ _ (by omega)]
    exact Nat.zero_le _

/-- An encode table in 0 to 1023 gives codes in 0 to 1023 (R21, R38). -/
theorem encodeValue_le {e : List Nat} (h : ∀ v ∈ e, v ≤ 1023) (lo : Nat) : encodeValue e lo ≤ 1023 := by
  rw [encodeValue_eq]
  obtain ⟨-, -, hmax⟩ := segment_between (e.getD (lo / 64) 0) (e.getD (lo / 64 + 1) 0) (lo % 64) 64 (by decide) (by decide)
    (Nat.mod_lt _ (by decide))
  exact hmax.trans (max_le (getD_le h) (getD_le h))

/-- A pixel of a channel has codes in 0 to 1023 where the channel's flat codes and encode entries do (R21, R38, R160). -/
theorem codesOk_pixelValue (view : ChannelView) (b : Bank) (c : Fin 6) (wc hc x y : Nat)
    (canvas : Option (Nat × Nat → Codes)) (hb : b.encodeOk) (hf : codesOk view.flat) :
    codesOk (pixelValue view b c wc hc canvas x y).codes := by
  have active : ∀ p source, codesOk (activePixel b c p source).codes := by
    intro p source
    rw [activePixel]
    split
    · exact codesOk_codeZero
    · exact ⟨encodeValue_le (hb c) _, encodeValue_le (hb c) _, encodeValue_le (hb c) _⟩
  have cell : ∀ source, codesOk (cellPixel b c x y source).codes := by
    intro source
    rw [cellPixel]
    split
    · exact codesOk_codeZero
    · split
      · exact codesOk_codeZero
      · exact active _ _
  have mesh : ∀ source, codesOk (meshPixel view b c x y source).codes := by
    intro source
    rw [meshPixel]
    split
    · exact codesOk_codeZero
    · split
      · exact codesOk_codeZero
      · simp only [gridPixel, plainPixel]
        split
        · exact hf
        · exact codesOk_codeZero
      · exact cell _
      · exact cell _
  rw [pixelValue]
  split
  · exact codesOk_codeZero
  · split
    · exact codesOk_codeZero
    · split
      · exact codesOk_codeZero
      · split
        · exact mesh _
        · exact codesOk_codeZero

/-- The flat codes of a control record are held to 1023 (R160). -/
theorem codesOk_flatOf (bytes : List Byte) : codesOk (flatOf bytes) :=
  ⟨Nat.min_le_right _ _, Nat.min_le_right _ _, Nat.min_le_right _ _⟩

/-! ## The Loader's writes keep the encode entries in 0 to 1023 (R38, R66) -/

/-- A write whose encode entries lie in 0 to 1023. -/
def BankWrite.encodeOk : BankWrite → Prop
  | .encode _ values => ∀ e ∈ values, e ≤ 1023
  | _ => True

/-- The default encode entries lie in 0 to 1023 (R38). -/
theorem defaultEncode_le : ∀ e ∈ defaultEncode, e ≤ 1023 := by
  intro e he
  obtain ⟨k, -, rfl⟩ := List.mem_map.mp he
  exact Nat.min_le_right _ _

/-- The encode entries of the blank bank lie in 0 to 1023 (R28, R38). -/
theorem blankBank_encodeOk : blankBank.encodeOk := by
  intro c e he
  simp only [blankBank, Arr.get_replicate, blankChannel] at he
  exact defaultEncode_le e he

/-- A bank whose channels take their encode entries from bounded tables has them in 0 to 1023. -/
theorem Bank.encodeOk_modifyChannel {b : Bank} (hb : b.encodeOk) (c : Fin 6) (f : ChannelTables → ChannelTables)
    (hf : ∀ e ∈ (f (b.channels.get c)).encode, e ≤ 1023) : (b.modifyChannel c f).encodeOk := by
  intro d e he
  rw [show (b.modifyChannel c f).channels = b.channels.modify c f from rfl, Arr.get_modify] at he
  split at he
  · rename_i hd
    subst hd
    exact hf e he
  · exact hb d e he

/-- One write of the Loader keeps the encode entries in 0 to 1023 (R66). -/
theorem Bank.encodeOk_write {b : Bank} (hb : b.encodeOk) (w : BankWrite) (hw : w.encodeOk) : (b.write w).encodeOk := by
  cases w with
  | mesh c g base points => exact Bank.encodeOk_modifyChannel hb c _ (hb c)
  | matrix c values => exact Bank.encodeOk_modifyChannel hb c _ (hb c)
  | ramp c values => exact Bank.encodeOk_modifyChannel hb c _ (hb c)
  | uplift c values => exact Bank.encodeOk_modifyChannel hb c _ (hb c)
  | encode c values => exact Bank.encodeOk_modifyChannel hb c _ hw
  | decode values => exact hb
  | finish marks =>
    intro c e he
    have hc : ((b.write (.finish marks)).channels.get c).encode =
        if marks.encode.getLsbD c.val then (b.channels.get c).encode else defaultEncode := by
      simp [Bank.write, Bank.freshen, Bank.finishChannel]
    rw [hc] at he
    split at he
    · exact hb c e he
    · exact defaultEncode_le e he

/-- The writes of a walk and its outcome, where every encode entry written lies in 0 to 1023. -/
def WritesOk (r : Walk × List BankWrite) : Prop := ∀ w ∈ r.2, w.encodeOk

/-- A walk that writes nothing writes no entry above 1023. -/
theorem writesOk_nil (w : Walk) : WritesOk (w, []) := by
  simp [WritesOk]

/-- A walk makes the writes asked of it or none (R61, R66). -/
theorem writesOk_writes {v w : Walk} {l : List BankWrite} (h : ∀ x ∈ l, x.encodeOk) : WritesOk (v, w.writes l) := by
  intro x hx
  simp only [Walk.writes] at hx
  split at hx
  · simp at hx
  · exact h x hx

/-- The values of an item other than a table write no encode entry (R66). -/
theorem valueWrites_encodeOk (scope : BitVec 6) (k : ItemKind) (item : List Byte) :
    ∀ w ∈ valueWrites scope k item, w.encodeOk := by
  intro w hw
  simp only [valueWrites] at hw
  split at hw <;> simp only [List.mem_map, List.not_mem_nil] at hw
  all_goals
    obtain ⟨c, -, rfl⟩ := hw
    trivial

/-- What END writes has no encode entry of its own (R60, R66). -/
theorem writesOk_finish (l : Layout) (w : Walk) : WritesOk (w.finish l) := by
  simp only [Walk.finish, Walk.complete]
  split
  · exact writesOk_nil _
  · split
    · exact writesOk_nil _
    · split
      · exact writesOk_nil _
      · exact writesOk_writes (by simp [BankWrite.encodeOk])

/-- An item that takes effect writes no encode entry above 1023 (R59, R66). -/
theorem writesOk_act (l : Layout) (w : Walk) (item : List Byte) (a : ItemAction) : WritesOk (w.act l item a) := by
  cases a with
  | headTag tag => simp only [Walk.act]; split <;> exact writesOk_nil _
  | openScope scope => exact writesOk_nil _
  | takeMesh scope m => simp only [Walk.act]; split <;> exact writesOk_nil _
  | takeValues scope k => exact writesOk_writes (valueWrites_encodeOk scope k item)
  | takeEncode scope count last => simp only [Walk.act]; split <;> exact writesOk_nil _
  | takeDecode count last => simp only [Walk.act]; split <;> exact writesOk_nil _
  | nothing => exact writesOk_nil _
  | finish => exact writesOk_finish l w

/-- An item whose bytes are read writes no encode entry above 1023 (R59). -/
theorem writesOk_onItem (l : Layout) (w : Walk) (item : List Byte) : WritesOk (w.onItem l item) := by
  rw [Walk.onItem]
  split
  · exact writesOk_nil _
  · exact writesOk_act l _ item _

/-- The bytes of a completed read bring no encode entry above 1023: those of an ENCODE table are held to 1023 (R38, R66). -/
theorem writesOk_consume (l : Layout) (w : Walk) (bytes : List Byte) : WritesOk (w.consume l bytes) := by
  rw [Walk.consume]
  split
  · simp only [Walk.onHeader]
    split
    · exact writesOk_nil _
    · exact writesOk_onItem l w bytes
  · exact writesOk_onItem l w _
  · simp only [Walk.onPoints]
    split
    · exact writesOk_nil _
    · intro x hx
      simp only at hx
      split at hx
      · simp at hx
      · obtain ⟨c, -, rfl⟩ := List.mem_map.mp hx
        trivial
  · refine writesOk_writes fun x hx => ?_
    obtain ⟨c, -, rfl⟩ := List.mem_map.mp hx
    intro e he
    obtain ⟨v, -, rfl⟩ := List.mem_map.mp he
    exact Nat.min_le_right _ _
  · exact writesOk_writes (by simp [BankWrite.encodeOk])

/-- A burst of a walk brings no encode entry above 1023. -/
theorem writesOk_onBurst (l : Layout) (w : Walk) (bytes : List Byte) (failed : Bool) : WritesOk (w.onBurst l bytes failed) := by
  rw [Walk.onBurst]
  split
  · exact writesOk_nil _
  · split
    · exact writesOk_nil _
    · split
      · exact writesOk_consume l _ _
      · exact writesOk_nil _

/-- A store whose encode entries lie in 0 to 1023 (R38). -/
def TableStore.encodeOk (t : TableStore) : Prop := t.bankA.encodeOk ∧ t.bankB.encodeOk

/-- The active bank of a store keeps the store's bound. -/
theorem TableStore.encodeOk_active {t : TableStore} (h : t.encodeOk) : t.active.encodeOk := by
  simp only [TableStore.active, TableStore.bank]
  split
  · exact h.1
  · exact h.2

/-- A change of the staging bank that keeps the bound of a bank keeps that of the store. -/
theorem TableStore.encodeOk_modifyStaging {t : TableStore} (h : t.encodeOk) (f : Bank → Bank)
    (hf : ∀ b, b.encodeOk → (f b).encodeOk) : (t.modifyStaging f).encodeOk := by
  simp only [TableStore.modifyStaging]
  split
  · exact ⟨h.1, hf _ h.2⟩
  · exact ⟨hf _ h.1, h.2⟩

/-- The Loader's writes keep the encode entries in 0 to 1023 (R66). -/
theorem store_applyWrites_encodeOk {s : State} (h : s.store.encodeOk) (l : List BankWrite) (hl : ∀ w ∈ l, w.encodeOk) :
    (applyWrites l s).store.encodeOk := by
  refine TableStore.encodeOk_modifyStaging h _ fun b hb => ?_
  induction l generalizing b with
  | nil => exact hb
  | cons w l ih =>
    exact ih (fun x hx => hl x (by simp [hx])) _ (Bank.encodeOk_write hb w (hl w (by simp)))

/-! ## What is sent, and what it takes to keep it in range (R21, R156) -/

/-- The device is IDLE or STARTING, when every port is OFF (R149, R155). -/
def State.atRest (s : State) : Prop := s.device.state = .idle ∨ s.device.state = .starting

/-- The channel's flat codes and the codes that wait for its port lie in 0 to 1023 (R21, R160). -/
def Channel.CodesOk (ch : Channel) : Prop := codesOk ch.flat ∧ ∀ pixel ∈ ch.ready, codesOk pixel.codes

/-- Channels render to UP ports alone, and every code held for sending, or sent last, lies in 0 to 1023 (R21, R156). -/
def State.SendingOk (s : State) : Prop := s.RenderingOk ∧ s.CodesOk

namespace State.SendingOk

variable {s t : State}

/-- The banks' encode entries lie in 0 to 1023. -/
theorem store (h : s.SendingOk) : s.store.encodeOk := ⟨h.2.bankA, h.2.bankB⟩

/-- A channel's codes lie in 0 to 1023. -/
theorem channel (h : s.SendingOk) (c : Fin 6) : (s.channels.get c).CodesOk := ⟨h.2.flat c, h.2.ready c⟩

/-- A port that works shows that the device is RUNNING or STOPPING (R155). -/
theorem not_atRest (h : s.SendingOk) {p : Fin 6} (hp : (s.ports.get p).state ≠ .off) : ¬ s.atRest :=
  fun hr => hp (h.1.off hr p)

/-- At rest no channel renders (R155, R156). -/
theorem rendering_of_atRest (h : s.SendingOk) (hr : s.atRest) (c : Fin 6) : (s.channels.get c).rendering = false := by
  by_contra hc
  obtain ⟨p, -, hup⟩ := h.1.up c (by simpa using hc)
  rw [h.1.off hr p] at hup
  cases hup

/-- What a change must leave so that the ports keep their link states and no further channel renders. -/
theorem mono (h : s.SendingOk) (hrest : t.atRest → s.atRest) (hl : t.layout = s.layout) (hst : t.store.encodeOk)
    (hch : ∀ c, ((t.channels.get c).rendering = true → (s.channels.get c).rendering = true) ∧ (t.channels.get c).CodesOk)
    (hp : ∀ p, (t.ports.get p).state = (s.ports.get p).state ∧ codesOk (t.ports.get p).sent) : t.SendingOk := by
  refine ⟨⟨by rw [hl]; exact h.1.ports, fun hr p => ?_, fun c hc => ?_⟩,
    ⟨hst.1, hst.2, fun c => (hch c).2.1, fun c => (hch c).2.2, fun p => (hp p).2⟩⟩
  · rw [(hp p).1]
    exact h.1.off (hrest hr) p
  · obtain ⟨p, hpo, hup⟩ := h.1.up c ((hch c).1 hc)
    exact ⟨p, by rw [hl]; exact hpo, by rw [(hp p).1]; exact hup⟩

/-- A change outside the layout, the banks, the channels and the ports that does not bring the device to rest. -/
theorem congr (h : s.SendingOk) (hrest : t.atRest → s.atRest := by simp [State.atRest])
    (hl : t.layout = s.layout := by simp) (hst : t.store = s.store := by simp)
    (hch : t.channels = s.channels := by simp) (hp : t.ports = s.ports := by simp) : t.SendingOk :=
  h.mono hrest hl (by rw [hst]; exact h.store) (fun c => by rw [hch]; exact ⟨id, h.channel c⟩)
    (fun p => by rw [hp]; exact ⟨rfl, h.2.sent p⟩)

/-- A change of the channels alone among the parts that sending rests on. -/
theorem ofChannels (h : s.SendingOk)
    (hch : ∀ c, ((t.channels.get c).rendering = true → (s.channels.get c).rendering = true) ∧ (t.channels.get c).CodesOk)
    (hrest : t.atRest → s.atRest := by simp [State.atRest]) (hl : t.layout = s.layout := by simp)
    (hst : t.store = s.store := by simp) (hp : t.ports = s.ports := by simp) : t.SendingOk :=
  h.mono hrest hl (by rw [hst]; exact h.store) hch (fun p => by rw [hp]; exact ⟨rfl, h.2.sent p⟩)

/-- A change of the ports alone, none of which changes its link state. -/
theorem ofPorts (h : s.SendingOk)
    (hp : ∀ p, (t.ports.get p).state = (s.ports.get p).state ∧ codesOk (t.ports.get p).sent)
    (hrest : t.atRest → s.atRest := by simp [State.atRest]) (hl : t.layout = s.layout := by simp)
    (hst : t.store = s.store := by simp) (hch : t.channels = s.channels := by simp) : t.SendingOk :=
  h.mono hrest hl (by rw [hst]; exact h.store) (fun c => by rw [hch]; exact ⟨id, h.channel c⟩) hp

/-- A change of the banks alone that keeps their encode entries in 0 to 1023. -/
theorem ofStore (h : s.SendingOk) (hst : t.store.encodeOk) (hrest : t.atRest → s.atRest := by simp [State.atRest])
    (hl : t.layout = s.layout := by simp) (hch : t.channels = s.channels := by simp)
    (hp : t.ports = s.ports := by simp) : t.SendingOk :=
  h.mono hrest hl hst (fun c => by rw [hch]; exact ⟨id, h.channel c⟩) (fun p => by rw [hp]; exact ⟨rfl, h.2.sent p⟩)

/-- A change of one channel that keeps its codes in range and does not make it render. -/
theorem modifyChannel (h : s.SendingOk) (c : Fin 6) (f : Channel → Channel)
    (hr : (f (s.channels.get c)).rendering = true → (s.channels.get c).rendering = true)
    (hc : (f (s.channels.get c)).CodesOk) : (Machine.modifyChannel c f s).SendingOk :=
  h.ofChannels fun d => by
    rw [channels_modifyChannel]
    split
    · rename_i hd
      subst hd
      exact ⟨hr, hc⟩
    · exact ⟨id, h.channel d⟩

/-- A change of one port that keeps its link state and the range of the codes it sent last. -/
theorem modifyPort (h : s.SendingOk) (p : Fin 6) (f : Port → Port)
    (hs : (f (s.ports.get p)).state = (s.ports.get p).state) (hc : codesOk (f (s.ports.get p)).sent) :
    (Machine.modifyPort p f s).SendingOk :=
  h.ofPorts fun q => by
    rw [ports_modifyPort]
    split
    · rename_i hq
      subst hq
      exact ⟨hs, hc⟩
    · exact ⟨rfl, h.2.sent q⟩

end State.SendingOk

/-! ## Computing and sending pixels (R156 to R158) -/

/-- The codes of a channel's next pixel lie in 0 to 1023. -/
theorem codesOk_nextValue {s : State} (h : s.SendingOk) (c : Fin 6) : codesOk (nextValue s c).codes :=
  codesOk_pixelValue _ _ _ _ _ _ _ _ (TableStore.encodeOk_active h.store) (h.2.flat c)

/-- A pixel passed keeps what is sent in range. -/
theorem sendingOk_passPixel {s : State} (h : s.SendingOk) (c : Fin 6) (k : Bool) : (passPixel c k s).SendingOk :=
  h.ofChannels fun d => by
    rw [channels_passPixel]
    split
    · rename_i hd
      subst hd
      exact ⟨id, h.channel d⟩
    · exact ⟨id, h.channel d⟩

/-- A pixel computed keeps what is sent in range. -/
theorem sendingOk_computePixel {s : State} (h : s.SendingOk) (c : Fin 6) : (computePixel c s).SendingOk :=
  h.ofChannels fun d => by
    rw [channels_computePixel]
    split
    · rename_i hd
      subst hd
      exact ⟨id, h.channel d⟩
    · exact ⟨id, h.channel d⟩

/-- A port that sends codes in 0 to 1023 keeps what is sent in range. -/
theorem sendingOk_sendCodes {s : State} (h : s.SendingOk) (p : Fin 6) {codes : Codes} (hc : codesOk codes) :
    (sendCodes p codes s).SendingOk :=
  h.modifyPort p _ rfl hc

/-- A late pixel sends code 0 or repeats codes in range (R158). -/
theorem sendingOk_latePixel {s : State} (h : s.SendingOk) (p c : Fin 6) : (latePixel p c s).SendingOk := by
  refine sendingOk_sendCodes (sendingOk_passPixel (h.modifyChannel c _ id (h.channel c)) c false) p ?_
  split
  · exact codesOk_codeZero
  · exact h.2.sent p

/-- A pixel that falls due is sent in range, whether ready, computed now or late (R157). -/
theorem sendingOk_duePixel {s : State} (h : s.SendingOk) (p c : Fin 6) : (duePixel p c s).SendingOk := by
  rw [duePixel]
  split
  · rename_i pixel rest hr
    have hmem : ∀ x ∈ pixel :: rest, codesOk x.codes := by rw [← hr]; exact h.2.ready c
    have hrest : ∀ x ∈ rest, codesOk x.codes := fun x hx => hmem x (List.mem_cons_of_mem _ hx)
    exact sendingOk_sendCodes (h.modifyChannel c _ id ⟨h.2.flat c, hrest⟩) p (hmem pixel List.mem_cons_self)
  · split
    · exact sendingOk_sendCodes (sendingOk_computePixel h c) p (codesOk_nextValue h c)
    · exact sendingOk_latePixel h p c

/-- A port sends what falls due in range (R157). -/
theorem sendingOk_sendPixel {s : State} (h : s.SendingOk) (p : Fin 6) : (sendPixel p s).SendingOk := by
  rw [sendPixel]
  split
  · split
    · exact sendingOk_sendCodes h p codesOk_codeZero
    · split
      · exact sendingOk_duePixel h p _
      · exact sendingOk_sendCodes h p codesOk_codeZero
  · exact h

/-- A pixel rendered ahead is kept for its port in range (R156). -/
theorem sendingOk_renderPixel {s : State} (h : s.SendingOk) (c : Fin 6) :
    (modifyChannel c (fun ch => { ch with ready := ch.ready ++ [⟨(nextValue s c).codes, (nextValue s c).clipped⟩] })
      (computePixel c s)).SendingOk := by
  have hc := sendingOk_computePixel h c
  refine hc.modifyChannel c _ id ⟨hc.2.flat c, fun x hx => ?_⟩
  rcases List.mem_append.mp hx with hx | hx
  · exact hc.2.ready c x hx
  · rw [List.mem_singleton.mp hx]
    exact codesOk_nextValue h c

/-- A burst read leaves what is sent. -/
theorem sendingOk_afterRead {s : State} (h : s.SendingOk) (a n : Nat) : (afterRead a n s).SendingOk := h.congr

/-- A request changes the channel's window alone (R156). -/
theorem sendingOk_requestRow {s : State} (h : s.SendingOk) (c : Fin 6) : (requestRow c s).SendingOk :=
  h.modifyChannel c _ id (h.channel c)

/-- A fetcher's burst changes the channel's window alone (R156). -/
theorem sendingOk_fetchBurst {s : State} (h : s.SendingOk) (size : Nat) (c : Fin 6) : (fetchBurst size c s).SendingOk := by
  rw [fetchBurst]
  split
  · rename_i r slot _ _
    have stored (bytes : List Byte) :=
      h.modifyChannel c (fun ch => { ch with window := storeRow ch.window r bytes }) id (h.channel c)
    exact sendingOk_afterRead (sendingOk_requestRow (stored _) c) _ _
  · exact h

/-! ## Link states (R151, R156) -/

/-- The channel of an enabled channel's port is that channel, the port map being one-to-one (R148). -/
theorem Layout.channelOf_of_portOf {l : Layout} (hl : l.PortsOk) {c p : Fin 6} (h : l.portOf c = some p) :
    l.channelOf p = some c :=
  lowest_unique (by simpa using h) fun d hd => hl d c p (by simpa using hd) h

/-- The ports after one is changed. -/
@[simp] theorem changePort_ports (p : Fin 6) (f : Port → Port) (s : State) :
    (changePort p f s).ports = s.ports.modify p f := by
  simp [changePort, Machine.modifyPort]

/-- The channels after a port is changed: one that leaves UP stops its channel (R156). -/
theorem channels_changePort (p : Fin 6) (f : Port → Port) (s : State) :
    (changePort p f s).channels =
      if (s.ports.get p).state = .up ∧ (f (s.ports.get p)).state ≠ .up then (stopChannelOf p s).channels
      else s.channels := by
  have hport : ∀ (k : Bool), ((raiseIf k .channel (modifyPort p f s)).ports.get p).state = (f (s.ports.get p)).state := by
    intro k
    simp [modifyPort]
  simp only [changePort, settleAlt_frame, leaveUp, hport]
  split
  · simp only [stopChannelOf, raiseIf_frame, modifyPort_frame]
    split <;> simp [modifyChannel]
  · simp

/-- The channels after the channel of a port is stopped (R156). -/
theorem channels_stopChannelOf (p : Fin 6) (s : State) (c : Fin 6) :
    (stopChannelOf p s).channels.get c =
      if s.layout.channelOf p = some c then (s.channels.get c).halt else s.channels.get c := by
  rw [stopChannelOf]
  split
  · rename_i hn
    simp [hn]
  · rename_i d hd
    simp only [channels_modifyChannel, hd, Option.some.injEq, eq_comm]
    split
    · rename_i hc
      rw [hc]
    · rfl

/-- A change of a working port keeps what is sent in range: one that leaves UP stops its channel (R151, R156). -/
theorem sendingOk_changePort {s : State} (h : s.SendingOk) (p : Fin 6) (f : Port → Port)
    (hp : (s.ports.get p).state ≠ .off) (hf : (f (s.ports.get p)).sent = (s.ports.get p).sent) :
    (changePort p f s).SendingOk := by
  have hrest : ¬ (changePort p f s).atRest := by
    simpa [State.atRest] using h.not_atRest hp
  have hch : ∀ c, (((changePort p f s).channels.get c).rendering = true → (s.channels.get c).rendering = true ∧
      ¬ ((s.ports.get p).state = .up ∧ (f (s.ports.get p)).state ≠ .up ∧ s.layout.channelOf p = some c)) ∧
      ((changePort p f s).channels.get c).CodesOk := by
    intro c
    rw [channels_changePort]
    split
    · rename_i hup
      rw [channels_stopChannelOf]
      split
      · exact ⟨fun hc => absurd hc (by simp [Channel.halt]), h.2.flat c, by simp [Channel.halt]⟩
      · rename_i hne
        exact ⟨fun hc => ⟨hc, fun hn => hne hn.2.2⟩, h.channel c⟩
    · rename_i hup
      exact ⟨fun hc => ⟨hc, fun hn => hup ⟨hn.1, hn.2.1⟩⟩, h.channel c⟩
  refine ⟨⟨by simpa using h.1.ports, fun hr => absurd hr hrest, fun c hc => ?_⟩,
    ⟨by simpa using h.2.bankA, by simpa using h.2.bankB, fun c => (hch c).2.1, fun c => (hch c).2.2, fun q => ?_⟩⟩
  · obtain ⟨hr, hstay⟩ := (hch c).1 hc
    obtain ⟨q, hq, hup⟩ := h.1.up c hr
    refine ⟨q, by simpa using hq, ?_⟩
    rw [changePort_ports, Arr.get_modify]
    split
    · rename_i hqp
      subst hqp
      by_contra hdown
      exact hstay ⟨hup, hdown, Layout.channelOf_of_portOf h.1.ports hq⟩
    · exact hup
  · rw [changePort_ports, Arr.get_modify]
    split
    · rename_i hqp
      subst hqp
      rw [hf]
      exact h.2.sent q
    · exact h.2.sent q

/-- A port in training works. -/
theorem Port.state_ne_off_of_attempting {port : Port} (h : port.attempting = true) : port.state ≠ .off := by
  simp only [Port.attempting, decide_eq_true_eq] at h
  simp [h.1]

/-- A port whose filtered presence is about to change works (R150). -/
theorem Port.state_ne_off_of_presenceDue {port : Port} (h : port.presenceDue = true) : port.state ≠ .off := by
  intro he
  simp [Port.presenceDue, he, LinkState.works] at h

/-- A failed attempt leaves the codes sent last (R152). -/
theorem Port.sent_fail (port : Port) : port.fail.sent = port.sent := by
  rw [Port.fail]
  split <;> rfl

/-- A presence rise leaves the codes sent last (R151). -/
theorem Port.sent_rise (port : Port) : port.rise.sent = port.sent := by
  rw [Port.rise]
  split <;> rfl

/-- A failed attempt keeps what is sent in range (R152). -/
theorem sendingOk_failAttempt {s : State} (h : s.SendingOk) (p : Fin 6) (hp : (s.ports.get p).attempting = true) :
    (failAttempt p s).SendingOk := by
  have hc := sendingOk_changePort h p Port.fail (Port.state_ne_off_of_attempting hp) (Port.sent_fail _)
  rw [failAttempt]
  split
  · exact hc.congr
  · exact hc

/-- A presence rise keeps what is sent in range (R151). -/
theorem sendingOk_presenceRise {s : State} (h : s.SendingOk) (p : Fin 6) : (presenceRise p s).SendingOk := by
  rw [presenceRise]
  split
  · rename_i hd
    exact sendingOk_changePort h p _ (Port.state_ne_off_of_presenceDue hd.1) (Port.sent_rise _)
  · exact h

/-- A presence fall keeps what is sent in range (R151). -/
theorem sendingOk_presenceFall {s : State} (h : s.SendingOk) (p : Fin 6) : (presenceFall p s).SendingOk := by
  rw [presenceFall]
  split
  · rename_i hd
    exact sendingOk_changePort h p _ (Port.state_ne_off_of_presenceDue hd.1) rfl
  · exact h

/-- The expiry of an attempt timer keeps what is sent in range (R152). -/
theorem sendingOk_attemptExpiry {s : State} (h : s.SendingOk) (p : Fin 6) : (attemptExpiry p s).SendingOk := by
  rw [attemptExpiry]
  split
  · rename_i ha
    exact sendingOk_failAttempt h p ha.1
  · exact h

/-- The expiry of a retry timer keeps what is sent in range (R152). -/
theorem sendingOk_retryExpiry {s : State} (h : s.SendingOk) (p : Fin 6) : (retryExpiry p s).SendingOk := by
  rw [retryExpiry]
  split
  · rename_i hr
    exact sendingOk_changePort h p _ (by simp [hr.1]) rfl
  · exact h

/-- Edges marked as of one moment leave what is sent. -/
theorem sendingOk_joinMoment {s : State} (h : s.SendingOk) (n : Nat) : (joinMoment n s).SendingOk := h.congr

/-- The events of the tick before keep what is sent in range (R150, R152). -/
theorem sendingOk_settleTick {s : State} (h : s.SendingOk) : (settleTick s).SendingOk := by
  have lines : ((allOf 4).foldl (fun t l => settleLine l t) s).SendingOk :=
    foldl_preserves State.SendingOk _ (fun _ _ ht => ht.congr) _ _ h
  refine sendingOk_joinMoment (foldl_preserves State.SendingOk _ (fun t p ht => ?_) _ _ lines) _
  exact sendingOk_retryExpiry (sendingOk_attemptExpiry (sendingOk_presenceFall (sendingOk_presenceRise ht p) p) p) p

/-- A sample of the presence line and the timers leave a port's link state and the codes it sent last (R150, R152). -/
theorem Port.sample_tickTimers_keeps (port : Port) (line : Bool) :
    (port.sample line).tickTimers.state = port.state ∧ (port.sample line).tickTimers.sent = port.sent := by
  have timers : ∀ q : Port, q.tickTimers.state = q.state ∧ q.tickTimers.sent = q.sent := by
    intro q
    rw [Port.tickTimers]
    split
    · split <;> exact ⟨rfl, rfl⟩
    · exact ⟨rfl, rfl⟩
  have sampled : (port.sample line).state = port.state ∧ (port.sample line).sent = port.sent := by
    rw [Port.sample]
    split <;> exact ⟨rfl, rfl⟩
  exact ⟨(timers _).1.trans sampled.1, (timers _).2.trans sampled.2⟩

/-- A sample tick keeps what is sent in range (R102, R150). -/
theorem sendingOk_sampleTick {s : State} (h : s.SendingOk) (pins : BitVec 4) (presence : BitVec 6) :
    (tickPorts presence (tickLines pins (settleTick s))).SendingOk := by
  have ht : (tickLines pins (settleTick s)).SendingOk := (sendingOk_settleTick h).congr
  refine ht.ofPorts fun p => ?_
  obtain ⟨hstate, hsent⟩ :=
    Port.sample_tickTimers_keeps ((tickLines pins (settleTick s)).ports.get p) (presence.getLsbD p.val)
  simp only [tickPorts, State.setPorts_ports, Arr.get_build]
  exact ⟨hstate, by rw [hsent]; exact ht.2.sent p⟩

/-! ## The output frame start (R156, R160, R182) -/

/-- A channel renders in the frame that begins where the device is RUNNING and its port is UP (R156, R163). -/
theorem rendersNow_iff (s : State) (c : Fin 6) :
    rendersNow s c = true ↔
      s.device.state = .running ∧ ∃ p, s.layout.portOf c = some p ∧ (s.ports.get p).state = .up := by
  rw [rendersNow]
  split <;> simp_all

/-- The rendering mark after the channels' response to an output frame start. -/
theorem rendering_channelsAtFrameStart (s : State) (c : Fin 6) :
    ((channelsAtFrameStart s).channels.get c).rendering = rendersNow s c := by
  rw [channels_channelsAtFrameStart]
  rfl

/-- The channels' response to an output frame start keeps what is sent in range: a channel renders where its port is UP, and
its flat codes are latched within 1023 (R156, R160). -/
theorem sendingOk_channelsAtFrameStart {s : State} (h : s.SendingOk) : (channelsAtFrameStart s).SendingOk := by
  have hp : ∀ p, ((channelsAtFrameStart s).ports.get p).state = (s.ports.get p).state ∧
      codesOk ((channelsAtFrameStart s).ports.get p).sent := by
    intro p
    rw [ports_channelsAtFrameStart, Arr.get_map]
    exact ⟨rfl, h.2.sent p⟩
  have hflat : ∀ c, codesOk ((channelsAtFrameStart s).channels.get c).flat := by
    intro c
    rw [channels_channelsAtFrameStart]
    simp only [channelAfter, Channel.begin]
    split
    · exact codesOk_flatOf _
    · exact h.2.flat c
  have hready : ∀ c, ((channelsAtFrameStart s).channels.get c).ready = [] := by
    intro c
    rw [channels_channelsAtFrameStart]
    rfl
  refine ⟨⟨by simpa using h.1.ports, fun hr p => ?_, fun c hc => ?_⟩,
    ⟨by simpa using h.2.bankA, by simpa using h.2.bankB, hflat, fun c => by simp [hready c], fun p => (hp p).2⟩⟩
  · rw [(hp p).1]
    exact h.1.off (by simpa using hr) p
  · rw [rendering_channelsAtFrameStart, rendersNow_iff] at hc
    obtain ⟨-, p, hpo, hup⟩ := hc
    exact ⟨p, by simpa using hpo, by rw [(hp p).1]; exact hup⟩

/-- The channels after the quarantine marks are cleared. -/
theorem channels_clearQuarantine (s : State) (c : Fin 6) :
    (clearQuarantine s).channels.get c = { s.channels.get c with quarantined := false } := by
  simp [clearQuarantine]

/-- The quarantine marks stand beside what is sent. -/
theorem sendingOk_clearQuarantine {s : State} (h : s.SendingOk) : (clearQuarantine s).SendingOk :=
  h.ofChannels fun c => by
    rw [channels_clearQuarantine]
    exact ⟨id, h.channel c⟩

/-- The exchange of the banks keeps the banks themselves (R78). -/
theorem sendingOk_exchange {s : State} (h : s.SendingOk) : (exchange s).SendingOk := by
  rw [exchange]
  split
  · exact h
  · have swapped : (s.setStore s.store.exchange).SendingOk := h.ofStore h.store
    exact sendingOk_clearQuarantine swapped.congr

/-- The ports after the end of a STOP (R155). -/
theorem endStop_ports (s : State) : (endStop s).ports = s.ports.map Port.turnOff := by
  simp [endStop, endPorts]

/-- The channels after the end of a STOP. -/
theorem endStop_channels (s : State) (c : Fin 6) :
    (endStop s).channels.get c = { s.channels.get c with quarantined := false } := by
  simp [endStop, channels_clearQuarantine]

/-- The banks after the end of a STOP (R96). -/
theorem endStop_store (s : State) : (endStop s).store = s.store.blankBoth := by
  have hb : ∀ u : State, (endBays u).store = u.store.blankBoth := by
    intro u
    have : ((allOf 8).foldl (fun t b => endBay b t) u).store = u.store :=
      foldl_keeps State.store _ (fun _ _ => by simp) _ _
    simp [endBays, this]
  simp [endStop, hb]

/-- The end of a STOP turns every port off while no channel renders (R155, R182). -/
theorem sendingOk_endStop {s : State} (h : s.SendingOk) (hr : ∀ c, (s.channels.get c).rendering = false) :
    (endStop s).SendingOk := by
  have hport : ∀ p, (endStop s).ports.get p = (s.ports.get p).turnOff := by simp [endStop_ports]
  refine ⟨⟨by simpa using h.1.ports, fun _ p => by rw [hport]; rfl, fun c hc => ?_⟩,
    ⟨?_, ?_, fun c => ?_, fun c => ?_, fun p => by rw [hport]; exact h.2.sent p⟩⟩
  · rw [endStop_channels] at hc
    exact absurd hc (by simp [hr c])
  · rw [endStop_store]
    exact blankBank_encodeOk
  · rw [endStop_store]
    exact blankBank_encodeOk
  · rw [endStop_channels]
    exact h.2.flat c
  · rw [endStop_channels]
    exact h.2.ready c

/-- The Bay Controller's part of an output frame start keeps what is sent in range (R77). -/
theorem sendingOk_baysPart {s : State} (h : s.SendingOk) : (baysPart s).SendingOk := by
  rw [baysPart]
  split
  · exact (sendingOk_exchange h).congr (t := baysAtFrameStart s) (by simp [State.atRest]) (by simp)
      (by simp [baysAtFrameStart]) (by simp [baysAtFrameStart]) (by simp)
  · exact h

/-- The blocks' responses keep what is sent in range; the start that ends a STOP comes while STOPPING (R182). -/
theorem sendingOk_blocksAtFrameStart {s : State} (h : s.SendingOk) (ending : Bool) (early : List (Fin 4))
    (he : ending = true → s.device.state ≠ .running) : (blocksAtFrameStart ending early s).SendingOk := by
  have hb : (baysPart (triggersPart early s)).SendingOk := sendingOk_baysPart h.congr
  simp only [blocksAtFrameStart]
  split
  · rename_i hend
    refine sendingOk_endStop (sendingOk_channelsAtFrameStart hb) fun c => ?_
    rw [rendering_channelsAtFrameStart, ← Bool.not_eq_true, rendersNow_iff]
    rintro ⟨hrun, -⟩
    exact he hend (by simpa using hrun)
  · exact sendingOk_channelsAtFrameStart hb.congr

/-- An output frame start keeps what is sent in range (R135). -/
theorem sendingOk_issueFrameStart {s : State} (h : s.SendingOk) (now : Nat) (order : StartOrder) :
    (issueFrameStart now order s).SendingOk := by
  have counted : (countStop (setTimingNoticed (s.timing.startAt now) s)).SendingOk := h.congr
  have hend : s.ending = true → s.device.state ≠ .running := by
    intro he
    simp only [State.ending, decide_eq_true_eq] at he
    simp [he.1]
  have acknowledged : ∀ {u : State}, u.SendingOk → (acknowledgeFault u).SendingOk := fun hu => hu.congr
  have snapped : ∀ {u : State}, u.SendingOk → (snapshot u).SendingOk := fun hu => hu.congr
  simp only [issueFrameStart]
  split
  · exact snapped (sendingOk_blocksAtFrameStart (acknowledged counted) _ _ (by simpa using hend))
  · exact snapped (acknowledged (sendingOk_blocksAtFrameStart counted _ _ (by simpa using hend)))

/-- An output frame start where one is due keeps what is sent in range. -/
theorem sendingOk_issueIf {s : State} (h : s.SendingOk) (due : Bool) (now : Nat) (order : StartOrder) :
    (issueIf due now order s).SendingOk := by
  rw [issueIf]
  split
  · exact sendingOk_issueFrameStart h now order
  · exact h

/-! ## Resets, START, STOP and the register accesses (R177 to R185) -/

/-- A device reset leaves nothing to send (R155, R183). -/
theorem sendingOk_deviceReset (s : State) : (deviceReset s).SendingOk := by
  have hport : ∀ p, (deviceReset s).ports.get p = resetPort (s.ports.get p).presenceLine (s.ports.get p).attempt := by
    simp [deviceReset, clearedPorts]
  have hchannel : ∀ c, (deviceReset s).channels.get c = resetChannel := by
    simp [deviceReset]
  refine ⟨⟨?_, fun _ p => by rw [hport]; rfl, fun c hc => ?_⟩,
    ⟨blankBank_encodeOk, blankBank_encodeOk, fun c => ?_, fun c => ?_, fun p => by rw [hport]; exact codesOk_codeZero⟩⟩
  · intro c d p hc
    simp [deviceReset, resetLayout, Layout.portOf, Layout.isEnabled] at hc
  · rw [hchannel] at hc
    cases hc
  · rw [hchannel]
    exact codesOk_codeZero
  · simp [hchannel, resetChannel]

/-- The registers and the accesses held stand beside what is sent. -/
theorem sendingOk_setLink {s : State} (h : s.SendingOk) (v : LinkEndpoint) : (s.setLink v).SendingOk := h.congr

/-- A START taken while IDLE keeps the device at rest (R177). -/
theorem sendingOk_takeStart {s : State} (h : s.SendingOk) : (takeStart s).SendingOk := by
  refine h.congr fun hr => ?_
  by_cases hi : s.device.state = .idle
  · exact .inl hi
  · simpa [State.atRest, takeStart, hi] using hr

/-- A STOP leaves the channels and the ports as they are (R179, R181). -/
theorem sendingOk_takeStop {s : State} (h : s.SendingOk) : (takeStop s).SendingOk := by
  refine h.congr fun hr => ?_
  cases hs : s.device.state with
  | idle => exact .inl hs
  | starting => exact .inr hs
  | running => simp [State.atRest, takeStop, hs, enterStopping] at hr
  | stopping => simp [State.atRest, takeStop, hs] at hr

/-- A register access keeps what is sent in range (R185). -/
theorem sendingOk_performRegister {s : State} (h : s.SendingOk) (a : RegisterAccess) : (performRegister a s).SendingOk := by
  cases a with
  | start => exact sendingOk_takeStart h
  | stop => exact sendingOk_takeStop h
  | reset => exact sendingOk_deviceReset s
  | areaBase w =>
    simp only [performRegister]
    split
    · exact h.congr
    · exact h
  | notice w => exact sendingOk_setLink h _
  | noticeEnable w => exact sendingOk_setLink h _
  | ignored => exact h

/-- An access that the link delivers keeps what is sent in range (R185). -/
theorem sendingOk_deliver {s : State} (h : s.SendingOk) (a : RegisterAccess) : (deliver a s).SendingOk := by
  rw [deliver]
  split
  · exact sendingOk_performRegister h a
  · exact h.congr

/-- The port of a channel: its entry of the port map, where the channel is enabled (R148). -/
theorem Layout.portOf_eq_some_iff {l : Layout} {c p : Fin 6} :
    l.portOf c = some p ↔ l.isEnabled c = true ∧ l.portMap.get c = p.val := by
  rw [Layout.portOf]
  by_cases he : l.isEnabled c = true
  · by_cases hlt : l.portMap.get c < 6
    · simp [he, hlt, Fin.ext_iff]
    · simp only [he, hlt, if_true, dite_false, reduceCtorEq, true_and, false_iff]
      omega
  · simp [he]

/-- A port map that passes the PORTMAP test is one-to-one over the enabled channels (R148, R178). -/
theorem portsOk_layoutOf {hd : Header} (h : hd.badPortMap = false) : (layoutOf hd).PortsOk := by
  have enabled : ∀ c, (layoutOf hd).isEnabled c = true → hd.channelEnabled c = true := by
    intro c he
    simp only [Layout.isEnabled, layoutOf, BitVec.getLsbD_ofNat, Bool.and_eq_true] at he
    exact he.2
  intro c d p hc hd'
  obtain ⟨hec, hpc⟩ := Layout.portOf_eq_some_iff.mp hc
  obtain ⟨hed, hpd⟩ := Layout.portOf_eq_some_iff.mp hd'
  by_contra hne
  simp only [Header.badPortMap, List.any_eq_false, mem_allOf, forall_const, Bool.and_eq_true, Bool.or_eq_true,
    decide_eq_true_eq, List.any_eq_true, true_and, not_and, not_or, not_exists] at h
  exact (h c (enabled c hec)).2 d ⟨enabled d hed, Ne.symm hne⟩ (hpd.trans hpc.symm)

/-- A header that is accepted has passed the PORTMAP test (R178). -/
theorem Header.badPortMap_of_judge {hd : Header} {area : Nat} (h : hd.judge area = .ok) : hd.badPortMap = false := by
  rw [Header.judge] at h
  split at h
  · cases h
  · split at h
    · cases h
    · split at h
      · cases h
      · rename_i hp
        simpa using hp

/-- The device, the layout and the ports at entry to RUNNING (R155, R180). -/
theorem enterRunning_parts (now : Nat) (pins : BitVec 4) (hd : Header) (returned : List (StartBlock × List Byte))
    (s : State) :
    (enterRunning now pins hd returned s).device.state = .running ∧
      (enterRunning now pins hd returned s).layout = layoutOf hd ∧
      ∀ p, ((enterRunning now pins hd returned s).ports.get p).sent = (s.ports.get p).sent := by
  refine ⟨by simp [enterRunning], by simp [enterRunning, latchProfile], fun p => ?_⟩
  simp only [enterRunning, snapshot_frame, raiseNotice_frame, setTimingNoticed_frame, State.setDevice_ports,
    initialiseLines_frame, State.setCapture_ports, startPorts, State.setPorts_ports, Arr.get_build]
  split <;> simp [Port.enterDown]

/-- Entry to RUNNING with an accepted header starts with no channel rendering (R155, R180). -/
theorem sendingOk_enterRunning {s : State} (h : s.SendingOk) (hr : s.atRest) (now : Nat) (pins : BitVec 4) {hd : Header}
    {area : Nat} (hj : hd.judge area = .ok) (returned : List (StartBlock × List Byte)) :
    (enterRunning now pins hd returned s).SendingOk := by
  obtain ⟨hdev, hlay, hsent⟩ := enterRunning_parts now pins hd returned s
  refine ⟨⟨?_, fun hrest => absurd hrest (by simp [hdev]), fun c hc => ?_⟩,
    ⟨by simpa using h.2.bankA, by simpa using h.2.bankB, by simpa using h.2.flat, by simpa using h.2.ready, fun p => ?_⟩⟩
  · rw [hlay]
    exact portsOk_layoutOf (Header.badPortMap_of_judge hj)
  · exact absurd hc (by simp [h.rendering_of_atRest hr c])
  · rw [hsent]
    exact h.2.sent p

/-! ## The bursts of the other requesters (R66, R167) -/

/-- Performing the register accesses delivered next keeps what is sent in range (R185). -/
theorem sendingOk_drain {s : State} (h : s.SendingOk) (q : List LinkAccess) : (drain q s).SendingOk := by
  induction q generalizing s with
  | nil => exact sendingOk_setLink h _
  | cons a q ih =>
    cases a with
    | register a => exact ih (sendingOk_performRegister (sendingOk_setLink h _) a)
    | write address data => exact sendingOk_setLink h _
    | read address length got => exact sendingOk_setLink h _

/-- The host link's burst keeps what is sent in range (R167, R185). -/
theorem sendingOk_hostBurst {s : State} (h : s.SendingOk) : (hostBurst s).SendingOk := by
  rw [hostBurst]
  split
  · exact h
  · exact h
  · simp only [hostWriteBurst]
    split
    · exact sendingOk_drain h.congr _
    · exact h.congr
  · simp only [hostReadBurst]
    split
    · exact sendingOk_drain h.congr _
    · exact h.congr

/-- The edition reader's burst keeps the encode entries in 0 to 1023 (R38, R66). -/
theorem sendingOk_editionBurst {s : State} (h : s.SendingOk) (size : Nat) : (editionBurst size s).SendingOk := by
  rw [editionBurst]
  split
  · exact h
  · split
    · exact h
    · split
      · exact h
      · refine h.ofStore (store_applyWrites_encodeOk ?_ _ (writesOk_onBurst _ _ _ _))
        simpa using h.store

/-- A granted burst keeps what is sent in range (R168). -/
theorem sendingOk_performBurst {s : State} (h : s.SendingOk) (size : Nat) (r : Requester) :
    (performBurst size r s).SendingOk := by
  cases r with
  | captureWriter => exact h.congr (t := captureBurst size s)
  | fetcher c => exact sendingOk_fetchBurst h size c
  | hostLink => exact sendingOk_hostBurst h
  | editionReader => exact sendingOk_editionBurst h size
  | statusWriter => exact h.congr (t := statusBurst s)

/-! ## Every command and every step -/

/-- The outcomes of a command that leads on to a state that keeps what is sent in range. -/
def Result.SendingOk (r : Result) : Prop := ∀ t, r = .next t → t.SendingOk

/-- A command that leads on to one state keeps what is sent in range where that state does. -/
theorem sendingOk_next {t : State} (h : t.SendingOk) : Result.SendingOk (.next t) := by
  intro u hu
  cases hu
  exact h

/-- A command that stops leads on to no state. -/
theorem sendingOk_fault (f : Fault) : Result.SendingOk (.fault f) := by
  intro u hu
  cases hu

section
variable {s : State} (h : s.SendingOk)
include h

/-- CHECK_DONE leaves the channels and the ports (R83). -/
theorem sendingOk_checkDone : (execCheckDone s).SendingOk := by
  rw [execCheckDone]
  split
  · exact sendingOk_next h
  · exact sendingOk_next h.congr

/-- LOAD_DONE leaves the channels and the ports (R89). -/
theorem sendingOk_loadDone : (execLoadDone s).SendingOk := by
  rw [execLoadDone]
  split
  · exact sendingOk_next h
  · exact sendingOk_next h.congr

/-- PASSED_EDGE leaves the channels and the ports (R91). -/
theorem sendingOk_passedEdge : (execPassedEdge s).SendingOk := by
  rw [execPassedEdge]
  split
  · exact sendingOk_next h
  · split
    · exact sendingOk_next h.congr
    · exact sendingOk_next h

/-- FORMAT_ANNOUNCEMENT leaves the channels and the ports (R119). -/
theorem sendingOk_formatAnnouncement (format : Format) : (execFormatAnnouncement format s).SendingOk := by
  rw [execFormatAnnouncement]
  split
  · exact sendingOk_next h
  · exact sendingOk_next h.congr

/-- FILL_DONE leaves the channels and the ports (R123). -/
theorem sendingOk_fillDone : (execFillDone s).SendingOk := by
  rw [execFillDone]
  split
  · exact sendingOk_next h.congr
  · exact sendingOk_next h

/-- HOST_WRITE is held, or stops past the end of frame memory (R167). -/
theorem sendingOk_hostWrite (address : Nat) (data : List Byte) : (execHostWrite address data s).SendingOk := by
  rw [execHostWrite]
  split
  · exact sendingOk_fault _
  · split
    · exact sendingOk_next h
    · exact sendingOk_next h.congr

/-- HOST_READ is held, or stops past the end of frame memory (R167). -/
theorem sendingOk_hostRead (address length : Nat) : (execHostRead address length s).SendingOk := by
  rw [execHostRead]
  split
  · exact sendingOk_fault _
  · split
    · exact sendingOk_next h
    · exact sendingOk_next h.congr

/-- OUTPUT_FRAME_START keeps what is sent in range (R135). -/
theorem sendingOk_outputFrameStart (order : StartOrder) : (execOutputFrameStart order s).SendingOk := by
  rw [execOutputFrameStart]
  split
  · exact sendingOk_next h
  · exact sendingOk_next (sendingOk_issueIf h _ _ _)

/-- MISSING_START_DEADLINE keeps what is sent in range (R143). -/
theorem sendingOk_missingStartDeadline (order : StartOrder) : (execMissingStartDeadline order s).SendingOk := by
  rw [execMissingStartDeadline]
  split
  · exact sendingOk_next h
  · exact sendingOk_next (sendingOk_issueIf h.congr _ _ _)

/-- VALIDATION_DONE keeps what is sent in range: the profile accepted has a one-to-one port map (R148, R180). -/
theorem sendingOk_validationDone (now : Nat) (pins : BitVec 4) :
    (execValidationDone now pins s).SendingOk := by
  rw [execValidationDone]
  split
  · rename_i hread
    have hr : s.atRest := by
      simp only [State.readsReturned, decide_eq_true_eq] at hread
      exact .inr hread.1
    dsimp only
    split
    · rename_i hj
      exact sendingOk_next (sendingOk_enterRunning h hr now pins hj _)
    · exact sendingOk_next (h.congr (fun _ => hr))
  · exact sendingOk_next h

/-- LOSS_OF_LOCK keeps what is sent in range: a port that leaves UP stops its channel (R151, R156). -/
theorem sendingOk_lossOfLock (p : Fin 6) : (execLossOfLock p s).SendingOk := by
  rw [execLossOfLock]
  split
  · rename_i hup
    exact sendingOk_next (sendingOk_changePort h p _ (by simp [hup]) rfl)
  · exact sendingOk_next h

/-- TRAINING_DONE keeps what is sent in range (R152). -/
theorem sendingOk_trainingDone (p : Fin 6) (result : TrainingResult) : (execTrainingDone p result s).SendingOk := by
  rw [execTrainingDone]
  split
  · rename_i ha
    split
    · exact sendingOk_next (sendingOk_changePort h p _ (Port.state_ne_off_of_attempting ha.1) rfl)
    · exact sendingOk_next (sendingOk_failAttempt h p ha.1)
  · exact sendingOk_next h

/-- BURST_GRANT keeps what is sent in range (R168). -/
theorem sendingOk_burstGrant (size : Nat) : (execBurstGrant size s).SendingOk := by
  rw [execBurstGrant]
  split
  · exact sendingOk_next h
  · exact sendingOk_next (sendingOk_performBurst h.congr size _)

/-- RENDER_PIXEL keeps what is sent in range (R156). -/
theorem sendingOk_execRenderPixel (c : Fin 6) : (execRenderPixel c s).SendingOk := by
  rw [execRenderPixel]
  split
  · exact sendingOk_next (sendingOk_renderPixel h c)
  · exact sendingOk_next h

/-- PIXEL_DUE keeps what is sent in range (R157). -/
theorem sendingOk_pixelDue (p : Fin 6) : (execPixelDue p s).SendingOk := by
  rw [execPixelDue]
  split
  · have sent := sendingOk_sendPixel h p
    exact sendingOk_next (sent.modifyPort p _ rfl (sent.2.sent p))
  · exact sendingOk_next h

end

/-- Every command keeps what is sent in range. -/
theorem sendingOk_exec {s : State} (h : s.SendingOk) (i : Instr) : Result.SendingOk (exec i s) := by
  cases i with
  | start => exact sendingOk_next (sendingOk_deliver h _)
  | stop => exact sendingOk_next (sendingOk_deliver h _)
  | reset => exact sendingOk_next (sendingOk_deliver h _)
  | areaBaseWrite w => exact sendingOk_next (sendingOk_deliver h _)
  | noticeClear w => exact sendingOk_next (sendingOk_deliver h _)
  | noticeEnableWrite w => exact sendingOk_next (sendingOk_deliver h _)
  | registerWriteIgnored r w => exact sendingOk_next (sendingOk_deliver h _)
  | powerOnReset found => exact sendingOk_next ((sendingOk_deviceReset s).congr (t := powerOn found s)
      (by simp [State.atRest, powerOn]) (by simp [powerOn]) (by simp [powerOn]) (by simp [powerOn]) (by simp [powerOn]))
  | pciExpressLinkReset => exact sendingOk_next (t := linkReset s) h.congr
  | hostWrite address data => exact sendingOk_hostWrite h address data
  | hostRead address length => exact sendingOk_hostRead h address length
  | presenceChange format => exact sendingOk_next (t := followLink format s) h.congr
  | formatAnnouncement format => exact sendingOk_formatAnnouncement h format
  | inputFrameStart time order => exact sendingOk_next (sendingOk_issueIf h.congr _ _ _)
  | line pixels => exact sendingOk_next (t := changeCapture _ s) h.congr
  | fillDone => exact sendingOk_fillDone h
  | outputFrameStart order => exact sendingOk_outputFrameStart h order
  | missingStartDeadline order => exact sendingOk_missingStartDeadline h order
  | validationDone time pins => exact sendingOk_validationDone h time pins
  | checkDone => exact sendingOk_checkDone h
  | loadDone => exact sendingOk_loadDone h
  | passedEdge => exact sendingOk_passedEdge h
  | filteredLevelChange l => exact sendingOk_next (t := filterChange l s) h.congr
  | holdOffExpiry l => exact sendingOk_next (t := holdOffExpiry l s) h.congr
  | presenceRise p => exact sendingOk_next (sendingOk_presenceRise h p)
  | presenceFall p => exact sendingOk_next (sendingOk_presenceFall h p)
  | lossOfLock p => exact sendingOk_lossOfLock h p
  | trainingDone p result => exact sendingOk_trainingDone h p result
  | attemptTimerExpiry p => exact sendingOk_next (sendingOk_attemptExpiry h p)
  | retryTimerExpiry p => exact sendingOk_next (sendingOk_retryExpiry h p)
  | burstGrant size => exact sendingOk_burstGrant h size
  | renderPixel c => exact sendingOk_execRenderPixel h c
  | pixelDue p => exact sendingOk_pixelDue h p
  | sampleTick pins presence => exact sendingOk_next (sendingOk_sampleTick h pins presence)

/-- Every step keeps what is sent in range. -/
theorem sendingOk_step {s t : State} (h : s.SendingOk) (hs : step s = .next t) : t.SendingOk := by
  rw [step] at hs
  split at hs
  · cases hs
    exact h
  · exact sendingOk_exec (s := s.setPending _) h.congr _ t hs

/-- Settles O60: what is sent stays in range, command by command. -/
theorem renderingAndCodesKept : Obligations.RenderingAndCodesKept :=
  fun _ _ hr hc hs => sendingOk_step ⟨hr, hc⟩ hs

/-! ## Notices and faults, as a claim reads them (R186, R190) -/

/-- The bit of a group's mask stands at that group alone (R186). -/
theorem NoticeGroup.getLsbD_mask (g k : NoticeGroup) : g.mask.getLsbD k.bit = decide (k = g) := by
  cases g <;> cases k <;> rfl

/-- A notice raised sets its own group's bit and leaves every other (R186). -/
theorem noticed_raiseNotice (g k : NoticeGroup) (s : State) :
    (raiseNotice g s).noticed k = (decide (k = g) || s.noticed k) := by
  simp only [State.noticed, raiseNotice, State.setLink_link, BitVec.getLsbD_or, NoticeGroup.getLsbD_mask, Bool.or_comm]

/-- A notice raised where a condition holds (R186). -/
theorem noticed_raiseIf (r : Bool) (g k : NoticeGroup) (s : State) :
    (raiseIf r g s).noticed k = (r && decide (k = g) || s.noticed k) := by
  rw [raiseIf]
  split <;> simp_all [noticed_raiseNotice]

/-- The notice bits follow the link registers. -/
theorem noticed_congr {s t : State} (h : t.link = s.link) (k : NoticeGroup) : t.noticed k = s.noticed k := by
  rw [State.noticed, State.noticed, h]

/-- A fault raises no notice but FAULT (R190, R191). -/
theorem noticed_takeFault {k : NoticeGroup} (hk : k ≠ .fault) (kind : FaultKind) (d : Word) (s : State) :
    (takeFault kind d s).noticed k = s.noticed k := by
  rw [takeFault, noticed_raiseIf, decide_eq_false hk, Bool.and_false, Bool.false_or]
  exact noticed_congr rfl k

/-- A fault changes the fault record alone in the status writer's state (R190, R191). -/
theorem takeFault_status (kind : FaultKind) (d : Word) (s : State) :
    (takeFault kind d s).status =
      { s.status with fault := s.status.fault.take kind d s.timing.frame } := by
  simp [takeFault]

/-! ## RENDER_PIXEL (R156, R161) -/

/-- The detail of a TABLE fault, spelled out (R190). -/
theorem tableDetail_eq (c : Fin 6) (bank : BankName) :
    tableDetail c bank = BitVec.ofNat 32 (c.val + 256 * (if bank = .a then 0 else 1)) := by
  cases bank <;> rfl

/-- A pixel whose reads pass parity is computed without a notice or a fault (R43). -/
theorem computePixel_of_sound {s : State} {c : Fin 6} (h : (nextValue s c).parityFailed = false) :
    (computePixel c s).status = s.status ∧ (computePixel c s).link = s.link := by
  simp [computePixel, h]

/-- A pixel for which a read fails parity raises CHANNEL and takes a TABLE fault that names the channel and the active bank
(R43, R161). -/
theorem computePixel_of_failed {s : State} {c : Fin 6} (h : (nextValue s c).parityFailed = true) :
    (computePixel c s).noticed .channel = true ∧
      (computePixel c s).status =
        { s.status with
          fault := s.status.fault.take .table
            (BitVec.ofNat 32 (c.val + 256 * (if s.store.select = .a then 0 else 1))) s.timing.frame } := by
  have hq : computePixel c s = passPixel c (nextValue s c).clipped (enterQuarantine c s) := by simp [computePixel, h]
  have hl : (computePixel c s).link = (enterQuarantine c s).link := by rw [hq]; simp
  constructor
  · rw [noticed_congr hl, enterQuarantine, noticed_takeFault (by decide), noticed_raiseNotice]
    rfl
  · rw [hq, ← tableDetail_eq]
    simp [enterQuarantine, takeFault_status]

/-- The window of a channel once the rows that no pixel left needs have left it and the next row is requested, in the states
that agree on what the channel needs (R156). -/
theorem refreshedWindow_congr {s t : State} {c : Fin 6} (hl : t.layout = s.layout) (hs : t.store = s.store)
    (hc : t.capture = s.capture) (hv : (t.channels.get c).view = (s.channels.get c).view)
    (hn : (t.channels.get c).nextPixel = (s.channels.get c).nextPixel)
    (hr : (t.channels.get c).rendering = (s.channels.get c).rendering) (w : List WindowRow) :
    request t c (w.filter (fun r => rowNeeded t c r.row)) = request s c (w.filter (fun r => rowNeeded s c r.row)) := by
  simp only [rowNeeded_congr hl hs hc hv hn, request_congr hl hs hc hv hn hr]

/-- The clips counted with a pixel, saturating (R16). -/
theorem saturate_add_bit (n : Nat) (k : Bool) : saturate (n + bit k) = min (n + if k then 1 else 0) 4294967295 := rfl

/-- RENDER_PIXEL where its premises hold. -/
theorem execRenderPixel_of_ready {s : State} {c : Fin 6} (hr : (s.channels.get c).rendering = true)
    (hn : (s.channels.get c).nextPixel < s.layout.rasterPixels) (ha : dataArrived s c = true) :
    exec (.renderPixel c) s = .next
      (modifyChannel c (fun ch => { ch with ready := ch.ready ++ [⟨(nextValue s c).codes, (nextValue s c).clipped⟩] })
        (computePixel c s)) := by
  show execRenderPixel c s = _
  rw [execRenderPixel, if_pos ⟨hr, hn, ha⟩]

/-- Settles O50. -/
theorem renderPixel : Obligations.RenderPixel := by
  intro s c old value hr hn ha
  set t := modifyChannel c (fun ch => { ch with ready := ch.ready ++ [⟨(nextValue s c).codes, (nextValue s c).clipped⟩] })
    (computePixel c s) with ht
  have hchannels : ∀ d, t.channels.get d =
      if d = c then
        { (computePixel c s).channels.get c with
          ready := ((computePixel c s).channels.get c).ready ++ [⟨value.codes, value.clipped⟩] }
      else (computePixel c s).channels.get d := fun d => channels_modifyChannel c _ (computePixel c s) d
  have hstatus : t.status = (computePixel c s).status := by simp [ht]
  have hlink : t.link = (computePixel c s).link := by simp [ht]
  have hc := hchannels c
  rw [if_pos rfl] at hc
  have hwindow : ∀ w : List WindowRow, request t c (w.filter (fun r => rowNeeded t c r.row)) =
      request (computePixel c s) c (w.filter (fun r => rowNeeded (computePixel c s) c r.row)) :=
    refreshedWindow_congr (by simp [ht]) (by simp [ht]) (by simp [ht]) (by rw [hc]; rfl) (by rw [hc]) (by rw [hc])
  have hch : t.channels.get c =
      { old with
        ready := old.ready ++ [⟨value.codes, value.clipped⟩], nextPixel := old.nextPixel + 1,
        clipRunning := min (old.clipRunning + if value.clipped then 1 else 0) 4294967295,
        quarantined := old.quarantined || value.parityFailed,
        window := request t c (old.window.filter (fun r => rowNeeded t c r.row)) } := by
    rw [hwindow, hc, channels_computePixel, if_pos rfl, saturate_add_bit]
  refine ⟨t, execRenderPixel_of_ready hr hn ha, ?_, fun d hd => ?_, hch, fun r hmem => ?_, fun hp => ?_, fun hp => ?_⟩
  · intro part hpart
    cases part <;> simp [Part.same, ht] at hpart ⊢
  · rw [hchannels, if_neg hd, channels_computePixel, if_neg hd]
  · rw [hch] at hmem
    exact (mem_request _ _ _ _ hmem).imp_left fun hm => (List.mem_filter.mp hm).1
  · rw [hstatus, hlink]
    exact computePixel_of_sound hp
  · rw [hstatus, noticed_congr hlink]
    exact computePixel_of_failed hp

/-! ## PIXEL_DUE (R157 to R159) -/

section
variable {s : State} {p c : Fin 6}

/-- A port that is not UP sends nothing (R157). -/
theorem sendPixel_of_notUp (h : (s.ports.get p).state ≠ .up) : sendPixel p s = s := by
  rw [sendPixel, if_neg h]

/-- An UP port whose channel is not rendering, or that no channel is sent on, sends code 0 (R157). -/
theorem sendPixel_of_dark (h : (s.ports.get p).state = .up)
    (hc : ∀ c, s.layout.channelOf p = some c → (s.channels.get c).rendering = false) :
    sendPixel p s = sendCodes p codeZero s := by
  rw [sendPixel, if_pos h]
  split
  · rfl
  · rename_i c hp
    rw [if_neg (by simp [hc c hp])]

/-- An UP port sends what falls due at its rendering channel (R157). -/
theorem sendPixel_of_rendering (h : (s.ports.get p).state = .up) (hp : s.layout.channelOf p = some c)
    (hr : (s.channels.get c).rendering = true) : sendPixel p s = duePixel p c s := by
  simp only [sendPixel, if_pos h, hp, hr, if_true]

/-- Codes that are ready are sent, the first of them first (R157). -/
theorem duePixel_of_ready {pixel : ReadyPixel} {rest : List ReadyPixel} (h : (s.channels.get c).ready = pixel :: rest) :
    duePixel p c s = sendCodes p pixel.codes (modifyChannel c (fun ch => { ch with ready := rest }) s) := by
  simp only [duePixel, h]

/-- A pixel whose data is present is computed now (R157). -/
theorem duePixel_of_arrived (h : (s.channels.get c).ready = []) (ha : dataArrived s c = true) :
    duePixel p c s = sendCodes p (nextValue s c).codes (computePixel c s) := by
  simp only [duePixel, h, ha, if_true]

/-- A pixel whose data is missing is late (R158). -/
theorem duePixel_of_late (h : (s.channels.get c).ready = []) (ha : dataArrived s c = false) :
    duePixel p c s = latePixel p c s := by
  simp [duePixel, h, ha]

/-- The ports after one sends codes. -/
theorem ports_sendCodes (codes : Codes) (q : Fin 6) :
    (sendCodes p codes s).ports.get q = if q = p then { s.ports.get p with sent := codes } else s.ports.get q := by
  rw [sendCodes, ports_modifyPort]

/-- The channel after a late pixel: passed without a clip, its line counted at the line's first (R158, R159). -/
theorem channels_latePixel (d : Fin 6) :
    (latePixel p c s).channels.get d =
      if d = c then
        { s.channels.get c with
          nextPixel := (s.channels.get c).nextPixel + 1
          clipRunning := min (s.channels.get c).clipRunning 4294967295
          lateLine := some ((s.channels.get c).nextPixel / s.layout.wr)
          lateRunning :=
            if (s.channels.get c).lateLine = some ((s.channels.get c).nextPixel / s.layout.wr) then
              (s.channels.get c).lateRunning
            else min ((s.channels.get c).lateRunning + 1) 4294967295
          window := request (latePixel p c s) c
            ((s.channels.get c).window.filter (fun r => rowNeeded (latePixel p c s) c r.row)) }
      else s.channels.get d := by
  simp only [latePixel, sendCodes_frame, channels_passPixel, channels_modifyChannel, if_true]
  split
  · rfl
  · rfl

/-- What a late pixel sends: code 0 at the start of a line, else the codes sent last (R158). -/
theorem sent_latePixel :
    ((latePixel p c s).ports.get p).sent =
      if (s.channels.get c).nextPixel % s.layout.wr = 0 then codeZero else (s.ports.get p).sent := by
  rw [latePixel, ports_sendCodes, if_pos rfl]

/-- Whatever falls due, the port changes in the codes sent alone, and no channel but the port's own changes. -/
theorem sendPixel_keeps (p : Fin 6) (s : State) :
    (∀ q, (sendPixel p s).ports.get q =
      if q = p then { s.ports.get p with sent := ((sendPixel p s).ports.get p).sent } else s.ports.get q) ∧
    ∀ c, s.layout.channelOf p ≠ some c → (sendPixel p s).channels.get c = s.channels.get c := by
  have same : ∀ t : State, t.ports = s.ports → ∀ codes q, (sendCodes p codes t).ports.get q =
      if q = p then { s.ports.get p with sent := ((sendCodes p codes t).ports.get p).sent } else s.ports.get q := by
    intro t ht codes q
    rw [ports_sendCodes, ports_sendCodes, if_pos rfl, ht]
  by_cases hup : (s.ports.get p).state = .up
  · by_cases hc : ∀ c, s.layout.channelOf p = some c → (s.channels.get c).rendering = false
    · rw [sendPixel_of_dark hup hc]
      exact ⟨same s rfl codeZero, fun c _ => by simp⟩
    · simp only [not_forall, Bool.not_eq_false] at hc
      obtain ⟨c, hp, hr⟩ := hc
      rw [sendPixel_of_rendering hup hp hr]
      have other : ∀ d, s.layout.channelOf p ≠ some d → d ≠ c := fun d hd he => hd (he ▸ hp)
      cases hready : (s.channels.get c).ready with
      | cons pixel rest =>
        rw [duePixel_of_ready hready]
        refine ⟨same _ (by simp) _, fun d hd => ?_⟩
        rw [(sendCodes_frame _ _ _).2.2.2.2.2.2.2.2.2.2.1, channels_modifyChannel, if_neg (other d hd)]
      | nil =>
        cases ha : dataArrived s c with
        | true =>
          rw [duePixel_of_arrived hready ha]
          refine ⟨same _ (by simp) _, fun d hd => ?_⟩
          simp only [sendCodes_frame]
          rw [channels_computePixel, if_neg (other d hd)]
        | false =>
          rw [duePixel_of_late hready ha]
          refine ⟨same _ (by simp) _, fun d hd => ?_⟩
          rw [channels_latePixel, if_neg (other d hd)]
  · rw [sendPixel_of_notUp hup]
    refine ⟨fun q => ?_, fun c _ => rfl⟩
    split
    · rename_i hq
      rw [hq]
    · rfl

end

/-- PIXEL_DUE with a pixel of the raster left. -/
theorem execPixelDue_of_left {s : State} {p : Fin 6} (h : (s.ports.get p).position < s.layout.rasterPixels) :
    exec (.pixelDue p) s = .next (modifyPort p (fun port => { port with position := port.position + 1 }) (sendPixel p s)) := by
  show execPixelDue p s = _
  rw [execPixelDue, if_pos h]

/-- Settles O51, by what falls due at the port. -/
theorem pixelDue : Obligations.PixelDue := by
  intro s p hleft port
  set u := sendPixel p s with hu
  set t := modifyPort p (fun port => { port with position := port.position + 1 }) u with ht
  obtain ⟨hports, hothers⟩ := sendPixel_keeps p s
  have hport : ∀ q, t.ports.get q = if q = p then { u.ports.get p with position := (u.ports.get p).position + 1 }
      else u.ports.get q := fun q => ports_modifyPort p _ u q
  have hsent : (t.ports.get p).sent = (u.ports.get p).sent := by rw [hport, if_pos rfl]
  have hchannels : t.channels = u.channels := by simp [ht]
  have hstatus : t.status = u.status := by simp [ht]
  have hlink : t.link = u.link := by simp [ht]
  have hrefresh : ∀ (c : Fin 6) (w : List WindowRow), request t c (w.filter (fun r => rowNeeded t c r.row)) =
      request u c (w.filter (fun r => rowNeeded u c r.row)) := fun c =>
    refreshedWindow_congr (by simp [ht]) (by simp [ht]) (by simp [ht]) (by rw [hchannels]) (by rw [hchannels])
      (by rw [hchannels])
  refine ⟨t, execPixelDue_of_left hleft, ?_, fun q hq => ?_, fun c hc => ?_, ?_, fun hup => ?_, fun hup hdark => ?_,
    fun c hup hc hr => ⟨fun pixel rest hready => ?_, fun hready ha => ?_, fun hready ha => ?_⟩⟩
  · intro part hpart
    cases part <;> simp [Part.same, ht, hu] at hpart ⊢
  · rw [hport, if_neg hq, hports, if_neg hq]
  · rw [hchannels]
    exact hothers c hc
  · rw [hsent, hport, if_pos rfl, hports, if_pos rfl]
  · rw [hsent, hchannels, hu, sendPixel_of_notUp hup]
    exact ⟨rfl, rfl⟩
  · rw [hsent, hchannels, hu, sendPixel_of_dark hup hdark, ports_sendCodes, if_pos rfl]
    exact ⟨rfl, by simp⟩
  · have hv : u = sendCodes p pixel.codes (modifyChannel c (fun ch => { ch with ready := rest }) s) :=
      (sendPixel_of_rendering hup hc hr).trans (duePixel_of_ready hready)
    rw [hsent, hchannels, hstatus, hv, ports_sendCodes, if_pos rfl]
    refine ⟨rfl, ?_, by simp⟩
    simp only [sendCodes_frame]
    rw [channels_modifyChannel, if_pos rfl]
  · have hv : u = sendCodes p (nextValue s c).codes (computePixel c s) :=
      (sendPixel_of_rendering hup hc hr).trans (duePixel_of_arrived hready ha)
    have hu' : u.channels = (computePixel c s).channels := by rw [hv]; simp
    have hwindow : ∀ w : List WindowRow, request t c (w.filter (fun r => rowNeeded t c r.row)) =
        request (computePixel c s) c (w.filter (fun r => rowNeeded (computePixel c s) c r.row)) := fun w =>
      (hrefresh c w).trans (refreshedWindow_congr (by simp [hv]) (by simp [hv]) (by simp [hv]) (by rw [hu']) (by rw [hu'])
        (by rw [hu']) w)
    have hs' : u.status = (computePixel c s).status := by rw [hv]; simp
    have hl' : u.link = (computePixel c s).link := by rw [hv]; simp
    refine ⟨?_, ?_, fun hp => ?_, fun hp => ?_⟩
    · rw [hsent, hv, ports_sendCodes, if_pos rfl]
    · rw [hwindow, hchannels, hu', channels_computePixel, if_pos rfl, saturate_add_bit]
    · rw [hstatus, hlink, hs', hl']
      exact computePixel_of_sound hp
    · rw [hstatus, noticed_congr hlink, hs', noticed_congr hl']
      exact computePixel_of_failed hp
  · have hv : u = latePixel p c s := (sendPixel_of_rendering hup hc hr).trans (duePixel_of_late hready ha)
    refine ⟨?_, ?_, ?_, ?_⟩
    · rw [hsent, hv, sent_latePixel]
      rfl
    · rw [hrefresh, hchannels, hv, channels_latePixel, if_pos rfl]
    · rw [hstatus, hv]
      simp
    · rw [hlink, hv]
      simp

/-! ## Which operations leave the CHANNEL notice (R165, R186) -/

/-- The CHANNEL bit of NOTICE. -/
def State.channelBit (s : State) : Bool := s.link.notice.getLsbD NoticeGroup.channel.bit

/-- The CHANNEL bit is what a claim reads as the CHANNEL notice. -/
theorem noticed_channel (s : State) : s.noticed .channel = s.channelBit := rfl

/-- The CHANNEL bit follows the link registers. -/
theorem channelBit_congr {s t : State} (h : t.link = s.link := by simp) : t.channelBit = s.channelBit := by
  rw [State.channelBit, State.channelBit, h]

@[simp] theorem channelBit_joinMoment (n : Nat) (s : State) : (joinMoment n s).channelBit = s.channelBit := channelBit_congr

@[simp] theorem channelBit_setLoader (w : Option Walk) (s : State) : (setLoader w s).channelBit = s.channelBit :=
  channelBit_congr

@[simp] theorem channelBit_setChecker (w : Option Walk) (s : State) : (setChecker w s).channelBit = s.channelBit :=
  channelBit_congr

@[simp] theorem channelBit_modifyChannel (c : Fin 6) (f : Channel → Channel) (s : State) :
    (modifyChannel c f s).channelBit = s.channelBit :=
  channelBit_congr

/-- A notice of another group leaves the CHANNEL bit. -/
theorem channelBit_raiseIf (r : Bool) {g : NoticeGroup} (hg : g ≠ .channel) (s : State) :
    (raiseIf r g s).channelBit = s.channelBit := by
  rw [← noticed_channel, noticed_raiseIf, decide_eq_false (Ne.symm hg), Bool.and_false, Bool.false_or, noticed_channel]

/-- A notice of another group, raised in any case, leaves the CHANNEL bit. -/
theorem channelBit_raiseNotice {g : NoticeGroup} (hg : g ≠ .channel) (s : State) :
    (raiseNotice g s).channelBit = s.channelBit :=
  channelBit_raiseIf true hg s

/-- A burst read raises no CHANNEL notice. -/
theorem channelBit_afterRead (a n : Nat) (s : State) : (afterRead a n s).channelBit = s.channelBit := by
  rw [afterRead]
  split
  · exact channelBit_congr
  · rw [← noticed_channel, noticed_takeFault (by decide)]
    exact channelBit_congr

@[simp] theorem channelBit_afterControlRead (o n : Nat) (s : State) : (afterControlRead o n s).channelBit = s.channelBit :=
  channelBit_afterRead _ _ s

@[simp] theorem channelBit_setTimingNoticed (t : Timing) (s : State) :
    (setTimingNoticed t s).channelBit = s.channelBit :=
  (channelBit_raiseIf _ (by decide) _).trans channelBit_congr

@[simp] theorem channelBit_acknowledgeFault (s : State) : (acknowledgeFault s).channelBit = s.channelBit :=
  channelBit_afterControlRead faultAckOffset 2 s

/-! ### The Trigger Unit

Its latches and deliveries raise no notice but TRIGGER, and FAULT where a read fails (R165). -/

theorem channelBit_deliverEdge (l : Fin 4) (s : State) : (deliverEdge l s).channelBit = s.channelBit := by
  simp only [deliverEdge]
  split
  · exact (channelBit_raiseNotice (by decide) _).trans channelBit_congr
  · exact channelBit_congr

theorem channelBit_latchLine (l : Fin 4) (setup : LineSetup) (s : State) :
    (latchLine l setup s).channelBit = s.channelBit := by
  simp only [latchLine, recompute, deliveryTest]
  split
  · split
    · exact (channelBit_deliverEdge l _).trans channelBit_congr
    · exact channelBit_congr
  · exact channelBit_congr

@[simp] theorem channelBit_latchSetups (s : State) : (latchSetups s).channelBit = s.channelBit := by
  rw [latchSetups]
  split
  · exact (channelBit_joinMoment _ _).trans
      ((foldl_keeps State.channelBit _ (fun t l => channelBit_latchLine l _ t) _ _).trans
        (foldl_keeps State.channelBit _ (fun t l => channelBit_afterControlRead _ _ t) _ _))
  · rfl

/-! ### The Bay Controller

Exchange, scan and check change bays through `changeBay`, which raises no notice but BAY (R165). -/

theorem channelBit_changeBay (b : Fin 8) (f : Bay → Bay) (fields : List (Nat × Nat × Nat)) (s : State) :
    (changeBay b f fields s).channelBit = s.channelBit :=
  (channelBit_raiseIf _ (by decide) _).trans channelBit_congr

theorem channelBit_startLoad (b : Fin 8) (s : State) : (startLoad b s).channelBit = s.channelBit :=
  calc
    (startLoad b s).channelBit = (setBayState b .loading (supersede b s)).channelBit := channelBit_setLoader _ _
    _ = (supersede b s).channelBit := channelBit_changeBay _ _ _ _
    _ = s.channelBit := foldl_keeps State.channelBit _ (fun t a => by
        split
        · exact channelBit_changeBay _ _ _ _
        · rfl) _ _

theorem channelBit_giveGo (b : Fin 8) (s : State) : (giveGo b s).channelBit = s.channelBit := by
  rw [giveGo]
  split
  · exact channelBit_startLoad b s
  · exact channelBit_congr
  · exact channelBit_congr
  all_goals rfl

theorem channelBit_serveEdge (edge : Fin 4 × Direction) (s : State) : (serveEdge edge s).channelBit = s.channelBit := by
  rw [serveEdge]
  split
  · rfl
  · split
    · exact channelBit_giveGo _ s
    · split
      · exact channelBit_giveGo _ s
      · exact (channelBit_raiseNotice (by decide) _).trans channelBit_congr

theorem channelBit_takeEdge (l : Fin 4) (s : State) : (takeEdge l s).channelBit = s.channelBit := by
  rw [takeEdge]
  split
  · rfl
  · split
    · exact (channelBit_serveEdge _ _).trans channelBit_congr
    · rfl

@[simp] theorem channelBit_triggersPart (early : List (Fin 4)) (s : State) :
    (triggersPart early s).channelBit = s.channelBit :=
  (foldl_keeps State.channelBit _ (fun t l => channelBit_takeEdge l t) _ _).trans (channelBit_latchSetups s)

theorem channelBit_exchange (s : State) : (exchange s).channelBit = s.channelBit := by
  have retired : ∀ (previous : Option (Fin 8)) (u : State), (retireLive previous u).channelBit = u.channelBit := by
    intro previous u
    cases previous with
    | none => rfl
    | some a => exact channelBit_changeBay _ _ _ _
  rw [exchange]
  split
  · rfl
  · rename_i b _
    calc
      _ = (retireLive (s.bayIn .live) (setBayState b .live (s.setStore s.store.exchange))).channelBit := channelBit_congr
      _ = (setBayState b .live (s.setStore s.store.exchange)).channelBit := retired _ _
      _ = (s.setStore s.store.exchange).channelBit := channelBit_changeBay _ _ _ _
      _ = s.channelBit := channelBit_congr

theorem channelBit_withdraw (b : Fin 8) (s : State) : (withdraw b s).channelBit = s.channelBit := by
  have released : ∀ u : State, (releaseBay b u).channelBit = u.channelBit := fun u => channelBit_changeBay _ _ _ u
  rw [withdraw]
  split
  · rfl
  · rfl
  · rfl
  · exact released s
  · exact (released _).trans channelBit_congr
  · exact released s
  · exact (released _).trans channelBit_congr
  · exact channelBit_congr
  · exact (channelBit_congr (t := setLive none s.bays.liveTag (releaseBay b s))).trans (released s)

theorem channelBit_scanBay (b : Fin 8) (r : BayRecord) (s : State) : (scanBay b r s).channelBit = s.channelBit := by
  have offered : ∀ u : State, (scanOffer b r u).channelBit = u.channelBit := by
    intro u
    rw [scanOffer]
    split
    · exact channelBit_changeBay _ _ _ _
    · rfl
  have withdrawn : ∀ u : State, (scanWithdraw b r u).channelBit = u.channelBit := by
    intro u
    rw [scanWithdraw]
    split
    · exact channelBit_withdraw b u
    · rfl
  have gone : ∀ u : State, (scanGo b r u).channelBit = u.channelBit := by
    intro u
    rw [scanGo]
    split
    · exact (channelBit_giveGo b _).trans channelBit_congr
    · rfl
  exact (gone _).trans ((withdrawn _).trans ((offered _).trans channelBit_congr))

theorem channelBit_scan (s : State) : (scan s).channelBit = s.channelBit := by
  have held : ∀ (b : Fin 8) (u : State), (rewriteHeld b u).channelBit = u.channelBit := fun b u => channelBit_congr
  calc
    _ = _ := foldl_keeps State.channelBit _ (fun t b => held b t) _ _
    _ = _ := foldl_keeps State.channelBit _ (fun t b => channelBit_scanBay b _ t) _ _
    _ = _ := foldl_keeps State.channelBit _ (fun t b => channelBit_afterControlRead _ _ t) _ _

theorem channelBit_startCheck (s : State) : (startCheck s).channelBit = s.channelBit := by
  rw [startCheck]
  split
  · split
    · rfl
    · exact (channelBit_setChecker _ _).trans (channelBit_changeBay _ _ _ _)
  · rfl

@[simp] theorem channelBit_baysAtFrameStart (s : State) : (baysAtFrameStart s).channelBit = s.channelBit :=
  (channelBit_startCheck _).trans ((channelBit_scan _).trans (channelBit_exchange s))

/-! ### The Capture Unit and the channels -/

@[simp] theorem channelBit_captureAtFrameStart (s : State) : (captureAtFrameStart s).channelBit = s.channelBit := by
  rw [captureAtFrameStart]
  split
  · exact channelBit_afterControlRead freezeOffset 4 s
  · rfl

/-- One channel's response raises CHANNEL where it closes a late-line count above 0 (R159, R165). -/
theorem channelBit_channelAtFrameStart (c : Fin 6) (s : State) :
    (channelAtFrameStart c s).channelBit = (decide (0 < (s.channels.get c).lateRunning) || s.channelBit) := by
  have latched : ∀ u : State, (latchControls c u).channelBit = u.channelBit := by
    intro u
    rw [latchControls]
    split
    · exact (channelBit_modifyChannel c _ _).trans (channelBit_afterControlRead _ _ _)
    · rfl
  have closed : (closeCounts c s).channelBit = (decide (0 < (s.channels.get c).lateRunning) || s.channelBit) := by
    rw [closeCounts, ← noticed_channel, noticed_raiseIf]
    simp only [decide_true, Bool.and_true]
    rfl
  exact (channelBit_modifyChannel c _ _).trans ((latched _).trans closed)

/-- One channel's response leaves every other channel. -/
theorem channels_channelAtFrameStart_ne {c d : Fin 6} (h : d ≠ c) (s : State) :
    (channelAtFrameStart c s).channels.get d = s.channels.get d := by
  rw [channelAtFrameStart, channels_modifyChannel, if_neg h, latchControls]
  split
  · rw [channels_modifyChannel, if_neg h]
    simp [closeCounts, channels_modifyChannel, h]
  · simp [closeCounts, channels_modifyChannel, h]

/-- The channels' response raises CHANNEL where some channel closes a late-line count above 0 (R159, R165). -/
theorem channelBit_channelsAtFrameStart (s : State) :
    (channelsAtFrameStart s).channelBit = true ↔
      s.channelBit = true ∨ ∃ c, 0 < (s.channels.get c).lateRunning := by
  have begun : ∀ (l : List (Fin 6)) (u : State), l.Nodup →
      ((l.foldl (fun t c => channelAtFrameStart c t) u).channelBit = true ↔
        u.channelBit = true ∨ ∃ c ∈ l, 0 < (u.channels.get c).lateRunning) := by
    intro l
    induction l with
    | nil => simp
    | cons c l ih =>
      intro u hn
      obtain ⟨hc, hl⟩ := List.nodup_cons.mp hn
      have others : (∃ d ∈ l, 0 < ((channelAtFrameStart c u).channels.get d).lateRunning) ↔
          ∃ d ∈ l, 0 < (u.channels.get d).lateRunning := by
        refine exists_congr fun d => and_congr_right fun hd => ?_
        rw [channels_channelAtFrameStart_ne (ne_of_mem_of_not_mem hd hc)]
      rw [List.foldl_cons, ih _ hl, channelBit_channelAtFrameStart, others, List.exists_mem_cons_iff, Bool.or_eq_true,
        decide_eq_true_eq]
      tauto
  have requests : (channelsAtFrameStart s).channelBit = (framesBegun s).channelBit :=
    channelBit_congr (by simp [channelsAtFrameStart])
  rw [requests, framesBegun, begun _ _ (nodup_allOf 6)]
  simp

/-! ## OUTPUT_FRAME_START while RUNNING (R77, R100, R124, R135, R156, R188) -/

/-- The fault acknowledgement where it comes at this place of the responses (R192, log 10). -/
def acknowledgeIf (here : Bool) (s : State) : State := if here then acknowledgeFault s else s

/-- What the fault acknowledgement leaves as it is, where it comes and where it does not. -/
@[simp] theorem acknowledgeIf_frame (here : Bool) (s : State) :
    (acknowledgeIf here s).pending = s.pending ∧ (acknowledgeIf here s).device = s.device ∧
    (acknowledgeIf here s).layout = s.layout ∧ (acknowledgeIf here s).timing = s.timing ∧
    (acknowledgeIf here s).source = s.source ∧ (acknowledgeIf here s).capture = s.capture ∧
    (acknowledgeIf here s).bays = s.bays ∧ (acknowledgeIf here s).reader = s.reader ∧
    (acknowledgeIf here s).store = s.store ∧ (acknowledgeIf here s).channels = s.channels ∧
    (acknowledgeIf here s).ports = s.ports ∧ (acknowledgeIf here s).triggers = s.triggers ∧
    (acknowledgeIf here s).arbiter = s.arbiter ∧ (acknowledgeIf here s).link.areaBase = s.link.areaBase ∧
    (acknowledgeIf here s).link.noticeEnable = s.link.noticeEnable ∧ (acknowledgeIf here s).link.queue = s.link.queue ∧
    (acknowledgeIf here s).status.snapshotCount = s.status.snapshotCount ∧
    (acknowledgeIf here s).memory.cells = s.memory.cells ∧ (acknowledgeIf here s).memory.errors = s.memory.errors ∧
    (acknowledgeIf here s).channelBit = s.channelBit := by
  unfold acknowledgeIf
  split <;> simp

/-- The generator's time line after its state is replaced. -/
@[simp] theorem setTimingNoticed_timing (t : Timing) (s : State) : (setTimingNoticed t s).timing = t := by
  simp [setTimingNoticed]

/-- The freeze field follows memory and the validated area alone. -/
theorem State.freeze_congr {s t : State} (hc : t.memory.cells = s.memory.cells) (he : t.memory.errors = s.memory.errors)
    (ha : t.device.validatedArea = s.device.validatedArea) : t.freeze = s.freeze := by
  rw [State.freeze, State.freeze, State.controlBytes_congr hc he ha]

@[simp] theorem channelBit_snapshot (s : State) : (snapshot s).channelBit = s.channelBit := channelBit_congr

/-- The state when the blocks respond to an output frame start: the generator has issued it, and the fault acknowledgement has
come where it comes first (R135, R192, log 10). -/
def startIssued (now : Nat) (ackFirst : Bool) (s : State) : State :=
  acknowledgeIf ackFirst (setTimingNoticed (s.timing.startAt now) s)

/-- What the generator's part and the acknowledgement leave as it is. -/
@[simp] theorem startIssued_frame (now : Nat) (ackFirst : Bool) (s : State) :
    (startIssued now ackFirst s).pending = s.pending ∧ (startIssued now ackFirst s).device = s.device ∧
    (startIssued now ackFirst s).layout = s.layout ∧ (startIssued now ackFirst s).timing = s.timing.startAt now ∧
    (startIssued now ackFirst s).source = s.source ∧ (startIssued now ackFirst s).capture = s.capture ∧
    (startIssued now ackFirst s).store = s.store ∧ (startIssued now ackFirst s).channels = s.channels ∧
    (startIssued now ackFirst s).ports = s.ports ∧ (startIssued now ackFirst s).triggers = s.triggers ∧
    (startIssued now ackFirst s).arbiter = s.arbiter ∧
    (startIssued now ackFirst s).link.areaBase = s.link.areaBase ∧
    (startIssued now ackFirst s).link.noticeEnable = s.link.noticeEnable ∧
    (startIssued now ackFirst s).link.queue = s.link.queue ∧
    (startIssued now ackFirst s).status.snapshotCount = s.status.snapshotCount ∧
    (startIssued now ackFirst s).memory.cells = s.memory.cells ∧
    (startIssued now ackFirst s).memory.errors = s.memory.errors ∧
    (startIssued now ackFirst s).channelBit = s.channelBit := by
  simp [startIssued]

/-- A channel's response follows what it reads of the state alone. -/
theorem channelAfter_congr {s t : State} (hd : t.device = s.device) (hl : t.layout = s.layout) (hp : t.ports = s.ports)
    (hc : t.memory.cells = s.memory.cells) (he : t.memory.errors = s.memory.errors) (c : Fin 6) (ch : Channel) :
    channelAfter t c ch = channelAfter s c ch := by
  simp only [channelAfter, hl, rendersNow_congr hd hl hp,
    State.controlBytes_congr hc he (congrArg Device.validatedArea hd)]

/-- The exchange clears the quarantine marks where a bay is STAGED, and changes nothing else of a channel (R78, R162). -/
theorem channels_exchange (s : State) (c : Fin 6) :
    (exchange s).channels.get c =
      { s.channels.get c with quarantined := (s.channels.get c).quarantined && (s.bayIn .staged).isNone } := by
  rw [exchange]
  split
  · rename_i hn
    simp [hn]
  · rename_i b hb
    rw [channels_clearQuarantine]
    simp [hb]

/-- The exchange changes the bank select where a bay is STAGED, and never the banks (R78). -/
theorem store_exchange (s : State) :
    (exchange s).store =
      { s.store with
        select := if (s.bayIn .staged).isSome then TableStore.other s.store.select else s.store.select } := by
  rw [exchange]
  split
  · rename_i hn
    simp [hn]
  · rename_i b hb
    simp [hb, TableStore.exchange]

/-- The Capture Unit after its response: the handoff, with freeze as read (R124). -/
theorem capture_captureAtFrameStart (s : State) :
    (captureAtFrameStart s).capture = if s.capture.enabled then s.capture.handoff s.freeze else s.capture := by
  rw [captureAtFrameStart]
  split <;> simp

/-- The fault acknowledgement reads fault_ack whole (R192). -/
theorem acknowledgeFault_status (s : State) :
    (acknowledgeFault s).status =
      { (afterControlRead 0x104 2 s).status with
        fault := (afterControlRead 0x104 2 s).status.fault.acknowledge (field (s.controlBytes 0x104 2) 0 2) } := by
  have hlen : (s.controlBytes 0x104 2).length ≤ 2 := by simp [State.controlBytes, Memory.readBytes]
  rw [field, List.drop_zero, List.take_of_length_le hlen]
  rfl

/-- The lines' setups after the Trigger Unit's part of an output frame start: those of the records (R100). -/
theorem setup_triggersPart (early : List (Fin 4)) (s : State) (h : s.triggers.runMark = true) (l : Fin 4) :
    ((triggersPart early s).triggers.lines.get l).setup = s.setupRecord l := by
  have hlines : (triggersPart early s).triggers.lines = (latchSetups s).triggers.lines :=
    foldl_keeps (fun t : State => t.triggers.lines) _ (fun t l => by simp) _ _
  rw [hlines, setup_latchSetups s h]

/-- A check starts on the lowest OFFERED bay (R83). -/
theorem startCheck_of_offered {s : State} {b : Fin 8} (hd : s.device.state = .running) (hc : s.reader.checker = none)
    (hb : s.bayState b = .offered) (hlow : ∀ a < b, s.bayState a ≠ .offered) :
    startCheck s = setChecker (some (startWalk s.layout b (s.bays.bays.get b).address (s.bays.bays.get b).length none))
      (setBayState b .checking s) := by
  have hlowest : lowest 8 (fun a => decide (s.bayState a = .offered)) = some b := by
    cases hf : lowest 8 (fun a => decide (s.bayState a = .offered)) with
    | none => simpa [hb] using lowest_eq_none.mp hf b
    | some a =>
      have ha : s.bayState a = .offered := by simpa using lowest_some hf
      rcases lt_trichotomy a b with hlt | rfl | hlt
      · exact absurd ha (hlow a hlt)
      · rfl
      · simpa [hb] using lowest_least hf hlt
  rw [startCheck, if_pos ⟨hd, hc⟩, hlowest]

/-- No check starts outside RUNNING, while the Checker works, or with no bay OFFERED (R83). -/
theorem startCheck_of_none {s : State}
    (h : s.device.state ≠ .running ∨ s.reader.checker ≠ none ∨ ∀ a, s.bayState a ≠ .offered) : startCheck s = s := by
  rw [startCheck]
  split
  · rename_i hc
    have hnone : lowest 8 (fun a => decide (s.bayState a = .offered)) = none := by
      rcases h with h | h | h
      · exact absurd hc.1 h
      · exact absurd hc.2 h
      · exact lowest_eq_none.mpr (by simpa using h)
    rw [hnone]
  · rfl

/-- The state fields of open bays stay; those of held bays are rewritten (R74). -/
theorem rewriteHeld_eq (b : Fin 8) (s : State) :
    rewriteHeld b s =
      if s.bayState b = .empty ∨ s.bayState b = .rejected ∨ s.bayState b = .released then s
      else handFields (bayOffset b) [(0x00, 1, (s.bayState b).code)] s := by
  rw [rewriteHeld]
  cases s.bayState b <;> rfl

/-- The blocks' responses to an output frame start while RUNNING, after the generator's own (log 31). -/
def respondRunning (early : List (Fin 4)) (s : State) : State :=
  channelsAtFrameStart (captureAtFrameStart (baysAtFrameStart (triggersPart early s)))

/-- An output frame start while RUNNING: the generator, the acknowledgement first or last, the blocks, the snapshot. -/
theorem issueFrameStart_of_running {s : State} (h : s.device.state = .running) (now : Nat) (order : StartOrder) :
    issueFrameStart now order s =
      snapshot (acknowledgeIf (!order.ackFirst)
        (respondRunning order.early (startIssued now order.ackFirst s))) := by
  have hcount : countStop (setTimingNoticed (s.timing.startAt now) s) = setTimingNoticed (s.timing.startAt now) s := by
    simp [countStop, h]
  have hend : s.ending = false := by simp [State.ending, h]
  have hblocks : ∀ u : State, u.device.state = .running →
      blocksAtFrameStart false order.early u = respondRunning order.early u := by
    intro u hu
    simp [blocksAtFrameStart, respondRunning, baysPart, hu]
  simp only [issueFrameStart, hcount, hend]
  cases order.ackFirst <;>
    simp [startIssued, acknowledgeIf, hblocks, h]

section
variable (early : List (Fin 4)) (s : State)

/-- What the responses while RUNNING leave as it is. -/
@[simp] theorem respondRunning_frame :
    (respondRunning early s).pending = s.pending ∧ (respondRunning early s).device = s.device ∧
    (respondRunning early s).layout = s.layout ∧ (respondRunning early s).timing = s.timing ∧
    (respondRunning early s).source = s.source ∧ (respondRunning early s).arbiter = s.arbiter ∧
    (respondRunning early s).link.areaBase = s.link.areaBase ∧
    (respondRunning early s).link.noticeEnable = s.link.noticeEnable ∧
    (respondRunning early s).link.queue = s.link.queue ∧
    (respondRunning early s).status.snapshotCount = s.status.snapshotCount ∧
    (respondRunning early s).memory.cells = s.memory.cells ∧
    (respondRunning early s).memory.errors = s.memory.errors ∧
    (respondRunning early s).triggers = (triggersPart early s).triggers ∧
    (respondRunning early s).bays = (baysAtFrameStart (triggersPart early s)).bays ∧
    (respondRunning early s).reader = (baysAtFrameStart (triggersPart early s)).reader := by
  simp [respondRunning]

/-- Every raster begins again (R157). -/
theorem ports_respondRunning : (respondRunning early s).ports = s.ports.map (fun port => { port with position := 0 }) := by
  simp [respondRunning, ports_channelsAtFrameStart]

/-- The banks after the responses: exchanged where a bay is STAGED (R78). -/
theorem store_respondRunning :
    (respondRunning early s).store =
      { s.store with
        select := if ((triggersPart early s).bayIn .staged).isSome then TableStore.other s.store.select
          else s.store.select } := by
  simp [respondRunning, baysAtFrameStart, store_exchange]

/-- The Capture Unit after the responses (R124). -/
theorem capture_respondRunning :
    (respondRunning early s).capture = if s.capture.enabled then s.capture.handoff s.freeze else s.capture := by
  have hfreeze : (baysAtFrameStart (triggersPart early s)).freeze = s.freeze :=
    State.freeze_congr (by simp) (by simp) (by simp)
  simp [respondRunning, capture_captureAtFrameStart, hfreeze]

/-- A channel before its own response: the exchange may have cleared its quarantine mark (R78). -/
theorem channels_beforeResponse (c : Fin 6) :
    (captureAtFrameStart (baysAtFrameStart (triggersPart early s))).channels.get c =
      { s.channels.get c with
        quarantined := (s.channels.get c).quarantined && ((triggersPart early s).bayIn .staged).isNone } := by
  simp [baysAtFrameStart, channels_exchange]

/-- A channel after the responses: closed, latched and begun, with its first row requested (R17, R156, R160). -/
theorem channels_respondRunning (c : Fin 6) :
    (respondRunning early s).channels.get c =
      { channelAfter s c
          { s.channels.get c with
            quarantined := (s.channels.get c).quarantined && ((triggersPart early s).bayIn .staged).isNone } with
        window := request (respondRunning early s) c [] } := by
  rw [respondRunning, channels_channelsAtFrameStart, channels_beforeResponse,
    channelAfter_congr (s := s) (by simp) (by simp) (by simp) (by simp) (by simp)]

/-- CHANNEL is raised where some channel closes a late-line count above 0 (R159, R165). -/
theorem channelBit_respondRunning :
    (respondRunning early s).channelBit = true ↔ s.channelBit = true ∨ ∃ c, 0 < (s.channels.get c).lateRunning := by
  rw [respondRunning, channelBit_channelsAtFrameStart]
  simp only [channels_beforeResponse, channelBit_captureAtFrameStart, channelBit_baysAtFrameStart,
    channelBit_triggersPart]

end

/-- A channel's fields after its response to an output frame start while RUNNING (R16, R17, R156, R157, R160). -/
theorem channelAfter_fields {s : State} (h : s.device.state = .running) (c : Fin 6) (old : Channel) :
    (channelAfter s c old).clipLast = old.clipRunning - old.ready.countP ReadyPixel.clipped ∧
      (channelAfter s c old).clipRunning = 0 ∧ (channelAfter s c old).lateLast = old.lateRunning ∧
      (channelAfter s c old).lateRunning = 0 ∧ (channelAfter s c old).nextPixel = 0 ∧
      (channelAfter s c old).ready = [] ∧
      ((channelAfter s c old).rendering = true ↔ ∃ p, s.layout.portOf c = some p ∧ (s.ports.get p).state = .up) ∧
      (channelAfter s c old).mode =
        (if s.layout.isEnabled c then modeOf (field (s.controlBytes (controlOffset c) 8) 0 1) else old.mode) ∧
      (channelAfter s c old).flat =
        (if s.layout.isEnabled c then flatOf (s.controlBytes (controlOffset c) 8) else old.flat) ∧
      (channelAfter s c old).quarantined = old.quarantined := by
  have hrender : (channelAfter s c old).rendering = rendersNow s c := rfl
  rw [hrender, rendersNow_iff]
  by_cases he : s.layout.isEnabled c = true
  · simp only [channelAfter, he, if_true]
    exact ⟨rfl, rfl, rfl, rfl, rfl, rfl, by simp [h], rfl, rfl, rfl⟩
  · simp only [channelAfter, he]
    exact ⟨rfl, rfl, rfl, rfl, rfl, rfl, by simp [h], rfl, rfl, rfl⟩

/-- OUTPUT_FRAME_START while RUNNING, at the time of the next start. -/
theorem execOutputFrameStart_of_running {s : State} {now : Nat} (h : s.device.state = .running)
    (hs : s.timing.state ≠ .stopped) (hn : s.timing.nextStart = some now) (order : StartOrder) :
    exec (.outputFrameStart order) s = .next (snapshot (acknowledgeIf (!order.ackFirst)
      (respondRunning order.early (startIssued now order.ackFirst s)))) := by
  have hissues : s.timing.issues = true := by simp [Timing.issues, hs]
  show execOutputFrameStart order s = _
  simp only [execOutputFrameStart, hn, issueIf, hissues, if_true, issueFrameStart_of_running h]

/-- Settles O18, part by part from what the responses leave and what they change. -/
theorem outputFrameStart : Obligations.OutputFrameStart := by
  intro s now order hrun hstate hnext issued latched early responded whole t
  set first := startIssued now order.ackFirst s with hfirst
  have hearly : early = triggersPart order.early first := rfl
  have hwhole : whole = acknowledgeIf (!order.ackFirst) (respondRunning order.early first) := by
    show (if order.ackFirst then respondRunning order.early first
      else acknowledgeFault (respondRunning order.early first)) = _
    cases order.ackFirst <;> rfl
  have ht : t = snapshot (acknowledgeIf (!order.ackFirst) (respondRunning order.early first)) := by rw [← hwhole]
  have hbytes : ∀ o n, first.controlBytes o n = s.controlBytes o n := fun o n =>
    State.controlBytes_congr (by simp [hfirst]) (by simp [hfirst]) (by simp [hfirst]) o n
  refine ⟨?_, fun _ => rfl, fun x b => rewriteHeld_eq b x, fun x b => startCheck_of_offered,
    fun x => startCheck_of_none, acknowledgeFault_status, ?parts, ?timing, ?areaBase, ?noticeEnable, ?queue,
    fun a => ?read, fun w => ?errorAt, fun p => ?port, fun c => ?channel, ?capture, ?store, ?bays, ?reader,
    fun hmark l => ?setup, ?fault, ?notice, fun area harea => ?snapshot⟩
  · rw [ht]
    exact execOutputFrameStart_of_running hrun hstate hnext order
  case parts => simp [Part.same, ht, hfirst]
  case timing => simp [ht, hfirst]
  case areaBase => simp [ht, hfirst]
  case noticeEnable => simp [ht, hfirst]
  case queue => simp [ht, hfirst]
  case read =>
    have hcells : t.memory.cells = s.memory.cells := by simp [ht, hfirst]
    rw [Memory.read, Memory.read, hcells]
  case errorAt =>
    have herrors : t.memory.errors = s.memory.errors := by simp [ht, hfirst]
    rw [Memory.errorAt, Memory.errorAt, herrors]
  case port => simp [ht, hfirst, ports_respondRunning]
  case channel =>
    have hview : t.channels.get c = (respondRunning order.early first).channels.get c := by rw [ht]; simp
    have hwindow : request t c [] = request (respondRunning order.early first) c [] :=
      request_congr (by simp [ht]) (by simp [ht]) (by simp [ht]) (by rw [hview]) (by rw [hview]) (by rw [hview]) []
    have hafter : ∀ ch, channelAfter first c ch = channelAfter s c ch := fun ch =>
      channelAfter_congr (by simp [hfirst]) (by simp [hfirst]) (by simp [hfirst]) (by simp [hfirst]) (by simp [hfirst]) c ch
    have hfc : first.channels = s.channels := by simp [hfirst]
    obtain ⟨hclip, hclipped, hlate, hcounted, hpixel, hready, hrender, hmode, hflat, hquarantine⟩ :=
      channelAfter_fields hrun c
        { s.channels.get c with
          quarantined := (s.channels.get c).quarantined && ((triggersPart order.early first).bayIn .staged).isNone }
    dsimp only
    rw [hwindow, hview, channels_respondRunning, hafter, hfc]
    exact ⟨hclip, hclipped, hlate, hcounted, hpixel, hready, rfl, hrender, hmode, hflat, hquarantine⟩
  case capture =>
    have hfreeze : first.freeze = s.freeze := State.freeze_congr (by simp [hfirst]) (by simp [hfirst]) (by simp [hfirst])
    have hcapture : t.capture = (respondRunning order.early first).capture := by simp [ht]
    rw [hcapture, capture_respondRunning, hfreeze]
    simp [hfirst]
  case store =>
    rw [hearly, ht]
    simp [store_respondRunning, hfirst]
  case bays =>
    rw [hearly, ht]
    simp [baysAtFrameStart]
  case reader =>
    rw [hearly, ht]
    simp [baysAtFrameStart]
  case setup =>
    have hrecord : first.setupRecord l = s.setupRecord l := by rw [State.setupRecord, State.setupRecord, hbytes]
    rw [← hrecord, ← setup_triggersPart order.early first (by simpa [hfirst] using hmark) l, ht]
    simp
  case fault => simp [t]
  case notice =>
    have hbit : t.channelBit = (respondRunning order.early first).channelBit := by simp [ht]
    rw [noticed_channel, noticed_channel, hbit, channelBit_respondRunning]
    simp [hfirst]
  case snapshot =>
    rw [ht, snapshot_status _ area (by simp [hfirst, harea])]
    simp [hfirst]

end Sys2Proof.Machine

namespace Sys2Proof.Machine

-- As above: one proof is checked after another.
set_option Elab.async false

/-! ## Where the bays, the walks and the banks stand (R28, R73, R83, R88) -/

/-- A bay is LOADING or STAGED just in these two states. -/
theorem BayState.isLoad_iff (k : BayState) : k.isLoad = true ↔ k = .loading ∨ k = .staged := by
  cases k <;> simp [BayState.isLoad]

/-- What the bounds on the bays speak of: the shadow states, the bays that the live bay number, the Checker and the Loader
name, the device state, and the banks. -/
@[ext] structure Standing where
  bay : Fin 8 → BayState
  live : Option (Fin 8)
  checker : Option (Fin 8)
  loader : Option (Fin 8)
  device : DeviceState
  bankA : Bank
  bankB : Bank

/-- Where the bays, the walks and the banks of a state stand. -/
def State.standing (s : State) : Standing where
  bay := s.bayState
  live := s.bays.liveBay
  checker := s.reader.checker.map Walk.bay
  loader := s.reader.loader.map Walk.bay
  device := s.device.state
  bankA := s.store.bankA
  bankB := s.store.bankB

/-- The states of a bay that some other part of the device names or works on. -/
def BayState.engaged (k : BayState) : Prop := k = .live ∨ k = .checking ∨ k = .loading ∨ k = .staged

/-- The device is IDLE or STARTING. -/
def DeviceState.resting (d : DeviceState) : Prop := d = .idle ∨ d = .starting

/-- A device at rest is not RUNNING. -/
theorem DeviceState.resting.ne_running {d : DeviceState} (h : d.resting) : d ≠ .running := by
  rcases h with rfl | rfl <;> simp

namespace Standing

/-- The bounds of R28, R73, R76, R83, R88, R95 and R96. -/
structure Ok (v : Standing) : Prop where
  live : ∀ b, v.bay b = .live ↔ v.live = some b
  checking : ∀ b, v.bay b = .checking ↔ v.checker = some b
  loading : ∀ b, v.bay b = .loading ↔ v.loader = some b
  oneLoad : ∀ a b, v.bay a = .loading ∨ v.bay a = .staged → v.bay b = .loading ∨ v.bay b = .staged → a = b
  quiet : v.device ≠ .running → ∀ b, v.bay b ≠ .checking ∧ v.bay b ≠ .loading ∧ v.bay b ≠ .staged
  idle : v.device.resting → ∀ b, v.bay b ≠ .ready ∧ v.bay b ≠ .live
  blank : v.device.resting → v.bankA = blankBank ∧ v.bankB = blankBank

/-- One bay's state set. -/
def put (v : Standing) (b : Fin 8) (k : BayState) : Standing := { v with bay := fun a => if a = b then k else v.bay a }

/-- While the device is RUNNING the bounds are that each bay in work is the one that its name gives, and that one bay at most
is LOADING or STAGED. -/
theorem ok_of_running {v : Standing} (hd : v.device = .running) (hlive : ∀ b, v.bay b = .live ↔ v.live = some b)
    (hcheck : ∀ b, v.bay b = .checking ↔ v.checker = some b) (hload : ∀ b, v.bay b = .loading ↔ v.loader = some b)
    (hone : ∀ a b, v.bay a = .loading ∨ v.bay a = .staged → v.bay b = .loading ∨ v.bay b = .staged → a = b) :
    v.Ok where
  live := hlive
  checking := hcheck
  loading := hload
  oneLoad := hone
  quiet hn := absurd hd hn
  idle hr := absurd hd hr.ne_running
  blank hr := absurd hd hr.ne_running

namespace Ok
variable {v : Standing} (h : v.Ok) {b : Fin 8} {k : BayState}
include h

/-- A Checker that works shows that the device is RUNNING (R95). -/
theorem running_of_checker (hc : v.checker = some b) : v.device = .running := by
  by_contra hd
  exact (h.quiet hd b).1 ((h.checking b).mpr hc)

/-- A Loader that works shows that the device is RUNNING (R95). -/
theorem running_of_loader (hl : v.loader = some b) : v.device = .running := by
  by_contra hd
  exact (h.quiet hd b).2.1 ((h.loading b).mpr hl)

/-- A STAGED bay shows that the device is RUNNING (R95). -/
theorem running_of_staged (hb : v.bay b = .staged) : v.device = .running := by
  by_contra hd
  exact (h.quiet hd b).2.2 hb

/-- A bay that nothing works on and nothing names moves to another such state (R80, R81). -/
theorem put (hd : v.device = .running) (hb : ¬ (v.bay b).engaged) (hk : ¬ k.engaged) : (v.put b k).Ok := by
  obtain ⟨hlive, hcheck, hload, hone, -⟩ := h
  simp only [BayState.engaged, not_or] at hb hk
  refine ok_of_running hd ?_ ?_ ?_ ?_ <;> simp only [Standing.put] <;> grind

/-- A check starts on an OFFERED bay while the Checker is idle (R83). -/
theorem startCheck (hd : v.device = .running) (hc : v.checker = none) (hb : v.bay b = .offered) :
    Ok { v.put b .checking with checker := some b } := by
  obtain ⟨hlive, hcheck, hload, hone, -⟩ := h
  refine ok_of_running hd ?_ ?_ ?_ ?_ <;> simp only [Standing.put] <;> grind

/-- The check of a bay ends, and the bay leaves CHECKING (R81, R84, R85). -/
theorem endCheck (hc : v.checker = some b) (hk : ¬ k.engaged) : (Standing.put { v with checker := none } b k).Ok := by
  have hd := h.running_of_checker hc
  obtain ⟨hlive, hcheck, hload, hone, -⟩ := h
  simp only [BayState.engaged, not_or] at hk
  refine ok_of_running hd ?_ ?_ ?_ ?_ <;> simp only [Standing.put] <;> grind

/-- The load of a bay ends: the bay is STAGED, or leaves the load (R81, R89). -/
theorem endLoad (hc : v.loader = some b) (hk : ¬ k.engaged ∨ k = .staged) :
    (Standing.put { v with loader := none } b k).Ok := by
  have hd := h.running_of_loader hc
  obtain ⟨hlive, hcheck, hload, hone, -⟩ := h
  simp only [BayState.engaged, not_or] at hk
  refine ok_of_running hd ?_ ?_ ?_ ?_ <;> simp only [Standing.put] <;> grind

/-- The live bay is withdrawn (R81). -/
theorem withdrawLive (hd : v.device = .running) (hb : v.bay b = .live) : Ok { v.put b .released with live := none } := by
  obtain ⟨hlive, hcheck, hload, hone, -⟩ := h
  refine ok_of_running hd ?_ ?_ ?_ ?_ <;> simp only [Standing.put] <;> grind

/-- A load starts on a READY bay, and the other loads and stagings give way (R88). -/
theorem startLoad (hd : v.device = .running) (hb : v.bay b = .ready) :
    Ok { v with
      bay := fun a => if a = b then .loading else if v.bay a = .loading ∨ v.bay a = .staged then .ready else v.bay a
      loader := some b } := by
  obtain ⟨hlive, hcheck, -⟩ := h
  refine ok_of_running hd ?_ ?_ ?_ ?_ <;> grind

/-- The STAGED bay becomes LIVE and the previous live bay READY (R78). -/
theorem exchange (hb : v.bay b = .staged) :
    Ok { v with
      bay := fun a => if v.live = some a then .ready else if a = b then .live else v.bay a
      live := some b } := by
  have hd := h.running_of_staged hb
  obtain ⟨hlive, hcheck, hload, hone, -⟩ := h
  refine ok_of_running hd ?_ ?_ ?_ ?_ <;> grind

/-- Outside IDLE and STARTING the banks are free (R28). -/
theorem setBanks (hv : ¬ v.device.resting) (x y : Bank) : Ok { v with bankA := x, bankB := y } := by
  obtain ⟨hlive, hcheck, hload, hone, hquiet, hidle, -⟩ := h
  exact ⟨hlive, hcheck, hload, hone, hquiet, hidle, fun hr => absurd hr hv⟩

/-- At rest no bay is live (R96). -/
theorem live_none (hv : v.device.resting) : v.live = none :=
  Option.eq_none_iff_forall_ne_some.mpr fun b hl => (h.idle hv b).2 ((h.live b).mpr hl)

/-- Outside RUNNING neither the Checker nor the Loader works (R95). -/
theorem walks_none (hd : v.device ≠ .running) : v.checker = none ∧ v.loader = none :=
  ⟨Option.eq_none_iff_forall_ne_some.mpr fun _ hc => hd (h.running_of_checker hc),
    Option.eq_none_iff_forall_ne_some.mpr fun _ hl => hd (h.running_of_loader hl)⟩

end Ok

/-- With both walks idle and no bay CHECKING, LOADING or STAGED, the bounds are those on the live bay and on the rest. -/
theorem ok_of_noWork {v : Standing} (hw : ∀ a, v.bay a ≠ .checking ∧ v.bay a ≠ .loading ∧ v.bay a ≠ .staged)
    (hc : v.checker = none) (hl : v.loader = none) (hlive : ∀ b, v.bay b = .live ↔ v.live = some b)
    (hrest : v.device.resting → (∀ b, v.bay b ≠ .ready ∧ v.bay b ≠ .live) ∧
      v.bankA = blankBank ∧ v.bankB = blankBank) : v.Ok where
  live := hlive
  checking b := by simp [hw b, hc]
  loading b := by simp [hw b, hl]
  oneLoad a b ha := by simp [hw a] at ha
  quiet _ := hw
  idle hr := (hrest hr).1
  blank hr := (hrest hr).2

/-- The device leaves IDLE or STARTING with nothing in work (R177, R179). -/
theorem Ok.setDevice_of_resting {v : Standing} (h : v.Ok) (hv : v.device.resting) (d : DeviceState) :
    Ok { v with device := d } := by
  have hrun := hv.ne_running
  obtain ⟨hc, hl⟩ := h.walks_none hrun
  exact ok_of_noWork (h.quiet hrun) hc hl h.live fun _ => ⟨h.idle hv, h.blank hv⟩

end Standing

section
variable (s : State)

/-- The shadow states of the standing. -/
@[simp] theorem standing_bay (b : Fin 8) : s.standing.bay b = s.bayState b := rfl
/-- The live bay of the standing. -/
@[simp] theorem standing_live : s.standing.live = s.bays.liveBay := rfl
/-- The bay that the Checker works on. -/
@[simp] theorem standing_checker : s.standing.checker = s.reader.checker.map Walk.bay := rfl
/-- The bay that the Loader works on. -/
@[simp] theorem standing_loader : s.standing.loader = s.reader.loader.map Walk.bay := rfl
/-- The device state of the standing. -/
@[simp] theorem standing_device : s.standing.device = s.device.state := rfl
/-- Bank A of the standing. -/
@[simp] theorem standing_bankA : s.standing.bankA = s.store.bankA := rfl
/-- Bank B of the standing. -/
@[simp] theorem standing_bankB : s.standing.bankB = s.store.bankB := rfl

end

/-- The bounds, as claims state them. -/
theorem standingOk_iff (s : State) : s.standing.Ok ↔ s.BaysOk ∧ s.BanksOk := by
  constructor
  · rintro ⟨hlive, hcheck, hload, hone, hquiet, hidle, hblank⟩
    refine ⟨⟨hlive, fun b => ?_, fun b => ?_, fun a b => ?_, fun hd b => ?_, hidle⟩, hblank⟩
    · simpa using hcheck b
    · simpa using hload b
    · simpa only [BayState.isLoad_iff, State.standing] using hone a b
    · have := hquiet hd b
      rw [← Bool.not_eq_true, BayState.isLoad_iff]
      exact ⟨this.1, not_or.mpr this.2⟩
  · rintro ⟨⟨hlive, hcheck, hload, hone, hquiet, hidle⟩, hblank⟩
    refine ⟨hlive, fun b => ?_, fun b => ?_, fun a b => ?_, fun hd b => ?_, hidle, hblank⟩
    · simpa using hcheck b
    · simpa using hload b
    · simpa only [BayState.isLoad_iff, State.standing] using hone a b
    · have := hquiet hd b
      rw [← Bool.not_eq_true, BayState.isLoad_iff] at this
      exact ⟨this.1, not_or.mp this.2⟩

/-- A change outside the bays, the walks and the banks moves the device state at most. -/
theorem standing_of_device {s t : State} (hb : t.bays.bays = s.bays.bays := by simp)
    (hl : t.bays.liveBay = s.bays.liveBay := by simp) (hr : t.reader = s.reader := by simp)
    (hs : t.store = s.store := by simp) : t.standing = { s.standing with device := t.device.state } := by
  simp only [State.standing, hl, hr, hs, funext (bayState_of_bays' hb)]

/-- A change outside the device state, the bays, the walks and the banks keeps the standing. -/
theorem standing_congr {s t : State} (hd : t.device.state = s.device.state := by simp)
    (hb : t.bays.bays = s.bays.bays := by simp) (hl : t.bays.liveBay = s.bays.liveBay := by simp)
    (hr : t.reader = s.reader := by simp) (hs : t.store = s.store := by simp) : t.standing = s.standing := by
  rw [standing_of_device hb hl hr hs, hd]
  rfl

/-- A change outside the device state, the bays, the walks and the banks keeps the bounds. -/
theorem standingOk_congr {s t : State} (h : s.standing.Ok) (hd : t.device.state = s.device.state := by simp)
    (hb : t.bays.bays = s.bays.bays := by simp) (hl : t.bays.liveBay = s.bays.liveBay := by simp)
    (hr : t.reader = s.reader := by simp) (hs : t.store = s.store := by simp) : t.standing.Ok := by
  rwa [standing_congr hd hb hl hr hs]

/-- A bay changed: its state is set (R75). -/
theorem standing_changeBay (b : Fin 8) (f : Bay → Bay) (l : List (Nat × Nat × Nat)) (s : State) :
    (changeBay b f l s).standing = s.standing.put b (f (s.bays.bays.get b)).state := by
  ext1
  case bay => exact funext (bayState_changeBay b f l s)
  all_goals simp [State.standing, Standing.put]

/-- The standing after a bay's state is set (R75). -/
theorem standing_setBayState (b : Fin 8) (k : BayState) (s : State) :
    (setBayState b k s).standing = s.standing.put b k := standing_changeBay b _ _ s

/-- The standing after a bay is released (R81, R96). -/
theorem standing_releaseBay (b : Fin 8) (s : State) : (releaseBay b s).standing = s.standing.put b .released :=
  standing_changeBay b _ _ s

/-- The standing after a bay is rejected (R85, R89). -/
theorem standing_rejectBay (b : Fin 8) (r : RejectReason) (i : Nat) (s : State) :
    (rejectBay b r i s).standing = s.standing.put b .rejected := standing_changeBay b _ _ s

/-- The standing after a bay is verified (R84). -/
theorem standing_verifyBay (b : Fin 8) (c : CheckSummary) (n : Nat) (s : State) :
    (verifyBay b c n s).standing = s.standing.put b .ready := standing_changeBay b _ _ s

/-- The standing after an offer is taken (R80). -/
theorem standing_takeOffer (b : Fin 8) (r : BayRecord) (s : State) :
    (takeOffer b r s).standing = s.standing.put b .offered := standing_changeBay b _ _ s

/-- A change of a shadow beside its state keeps the standing. -/
theorem standing_modifyBay (b : Fin 8) (f : Bay → Bay) (s : State) (hf : ∀ bay, (f bay).state = bay.state) :
    (modifyBay b f s).standing = s.standing := by
  ext1
  case bay => exact funext fun a => bayState_modifyBay b f s a hf
  all_goals simp [State.standing]

/-- The standing after the Checker is set. -/
theorem standing_setChecker (w : Option Walk) (s : State) :
    (setChecker w s).standing = { s.standing with checker := w.map Walk.bay } := by
  ext1
  case bay => exact funext (bayState_of_bays (by simp))
  all_goals simp [State.standing]

/-- The standing after the Loader is set. -/
theorem standing_setLoader (w : Option Walk) (s : State) :
    (setLoader w s).standing = { s.standing with loader := w.map Walk.bay } := by
  ext1
  case bay => exact funext (bayState_of_bays (by simp))
  all_goals simp [State.standing]

/-- The standing after the live bay number is set (R93). -/
theorem standing_setLive (n : Option (Fin 8)) (tag : Word) (s : State) :
    (setLive n tag s).standing = { s.standing with live := n } := by
  ext1
  case bay => exact funext (bayState_of_bays' (by simp))
  case live => rfl
  all_goals simp [State.standing]

/-- The walk whose result is handed over. -/
theorem eq_some_of_finished {o : Option Walk} {w : Walk} {r : WalkResult} (h : finished o = some (w, r)) : o = some w := by
  cases o with
  | none => cases h
  | some v =>
    simp only [finished, Option.map_eq_some_iff, Prod.mk.injEq] at h
    obtain ⟨_, _, rfl, -⟩ := h
    rfl

/-- The standing after the previous live bay becomes READY (R78). -/
theorem standing_retireLive (s : State) (o : Option (Fin 8)) :
    (retireLive o s).standing = { s.standing with bay := fun a => if o = some a then .ready else s.bayState a } := by
  cases o with
  | none => simp [retireLive, State.standing]
  | some b =>
    rw [retireLive, standing_setBayState, Standing.put]
    simp only [Option.some.injEq, eq_comm (a := b)]
    rfl

/-- The quarantine marks stand beside the bounds (R162). -/
theorem standing_clearQuarantine (s : State) : (clearQuarantine s).standing = s.standing := standing_congr

/-- The exchange of the banks changes the bank select alone (R26). -/
theorem standing_setStore_exchange (s : State) : (s.setStore s.store.exchange).standing = s.standing := rfl

/-! ## Gos, checks and loads -/

section
variable {s : State} (h : s.standing.Ok)
include h

/-- A change of a shadow beside its state keeps the bounds. -/
theorem standingOk_modifyBay (b : Fin 8) (f : Bay → Bay) (hf : ∀ bay, (f bay).state = bay.state) :
    (modifyBay b f s).standing.Ok := by
  rwa [standing_modifyBay b f s hf]

/-- The start of a load keeps the bounds (R88). -/
theorem standingOk_startLoad (hd : s.device.state = .running) {b : Fin 8} (hb : s.bayState b = .ready) :
    (startLoad b s).standing.Ok := by
  have hs : (startLoad b s).standing =
      { s.standing with
        bay := fun a =>
          if a = b then .loading else if s.bayState a = .loading ∨ s.bayState a = .staged then .ready else s.bayState a
        loader := some b } := by
    rw [startLoad, standing_setLoader, standing_setBayState]
    ext a
    case bay =>
      simp only [Standing.put, State.standing, bayState_supersede, BayState.isLoad_iff]
      grind
    all_goals simp [State.standing, Standing.put, startWalk_bay]
  rw [hs]
  exact h.startLoad hd hb

/-- A go given while RUNNING keeps the bounds (R87). -/
theorem standingOk_giveGo (hd : s.device.state = .running) (b : Fin 8) : (giveGo b s).standing.Ok := by
  rw [giveGo]
  split
  case h_1 hb => exact standingOk_startLoad h hd hb
  case h_2 => exact standingOk_modifyBay h b _ fun _ => rfl
  case h_3 => exact standingOk_modifyBay h b _ fun _ => rfl
  all_goals exact h

/-- The start of a check keeps the bounds (R83). -/
theorem standingOk_startCheck : (startCheck s).standing.Ok := by
  rw [startCheck]
  split
  · rename_i hc
    obtain ⟨hd, hc⟩ := hc
    split
    · exact h
    · rename_i b hb
      have hb : s.bayState b = .offered := by simpa using lowest_some hb
      rw [standing_setChecker, standing_setBayState, Option.map_some, startWalk_bay]
      exact h.startCheck hd (by simp [hc]) hb
  · exact h

/-- The go that waits for a check keeps the bounds (R84). -/
theorem standingOk_goAtCheckDone (hd : s.device.state = .running) (b : Fin 8) : (goAtCheckDone b s).standing.Ok := by
  simp only [goAtCheckDone]
  split
  · exact standingOk_giveGo (standingOk_modifyBay h b (fun bay => { bay with goPending := false }) fun _ => rfl)
      (by simp [hd]) b
  · exact h

/-- The result of a check keeps the bounds (R84, R85). -/
theorem standingOk_applyCheck {w : Walk} (hw : s.reader.checker = some w) (r : WalkResult) :
    (applyCheck w r (setChecker none s)).standing.Ok := by
  have hc : s.standing.checker = some w.bay := by simp [hw]
  have hd : s.device.state = .running := h.running_of_checker hc
  cases r with
  | passed =>
    have verified : (verifyBay w.bay w.summary w.poolSum (setChecker none s)).standing.Ok := by
      rw [standing_verifyBay, standing_setChecker, Option.map_none]
      exact h.endCheck hc (by simp [BayState.engaged])
    exact standingOk_goAtCheckDone verified (by simp [hd]) w.bay
  | rejected reason index =>
    rw [applyCheck, standing_rejectBay, standing_setChecker, Option.map_none]
    exact h.endCheck hc (by simp [BayState.engaged])

/-- The result of a load keeps the bounds (R89). -/
theorem standingOk_applyLoad {w : Walk} (hw : s.reader.loader = some w) (r : WalkResult) :
    (applyLoad w r (setLoader none s)).standing.Ok := by
  have hl : s.standing.loader = some w.bay := by simp [hw]
  cases r with
  | passed =>
    rw [applyLoad, standing_setBayState, standing_setLoader, Option.map_none]
    exact h.endLoad hl (.inr rfl)
  | rejected reason index =>
    rw [applyLoad, standing_rejectBay, standing_setLoader, Option.map_none]
    exact h.endLoad hl (.inl (by simp [BayState.engaged]))

/-! ## The output frame start -/

/-- The bay that is LIVE is the one that the live bay number names (R76). -/
theorem bayIn_live : s.bayIn .live = s.bays.liveBay := by
  cases hl : s.bays.liveBay with
  | none =>
    refine lowest_eq_none.mpr fun b => decide_eq_false fun hb => ?_
    exact absurd ((h.live b).mp hb) (by simp [hl])
  | some a =>
    refine lowest_unique (decide_eq_true ((h.live a).mpr hl)) fun b hb => ?_
    exact Option.some.inj (((h.live b).mp (of_decide_eq_true hb)).symm.trans hl)

/-- The exchange where a bay is STAGED, with the previous live bay by its number (R78). -/
theorem exchange_of_staged {b : Fin 8} (hb : s.bayIn .staged = some b) :
    exchange s = clearQuarantine (setLive (some b) (s.bays.bays.get b).tag
      (retireLive s.bays.liveBay (setBayState b .live (s.setStore s.store.exchange)))) := by
  rw [exchange, hb, ← bayIn_live h]

/-- The exchange keeps the bounds (R78). -/
theorem standingOk_exchange : (exchange s).standing.Ok := by
  cases hb : s.bayIn .staged with
  | none =>
    rw [exchange, hb]
    exact h
  | some b =>
    have hstaged : s.bayState b = .staged := by simpa using lowest_some hb
    rw [exchange_of_staged h hb, standing_clearQuarantine, standing_setLive, standing_retireLive]
    simp only [standing_setBayState, bayState_setBayState, standing_setStore_exchange]
    exact h.exchange hstaged

/-- An offer taken keeps the bounds (R80). -/
theorem standingOk_scanOffer (hd : s.device.state = .running) (b : Fin 8) (r : BayRecord) :
    (scanOffer b r s).standing.Ok := by
  rw [scanOffer]
  split
  · rename_i hb
    rw [standing_takeOffer]
    refine h.put hd (fun he => ?_) (by simp [BayState.engaged])
    have hopen := hb.1
    rcases he with he | he | he | he <;> simp [← standing_bay, he, BayState.isOpen] at hopen
  · exact h

/-- A withdraw keeps the bounds, by the shadow state it finds (R81). -/
theorem standingOk_withdraw (hd : s.device.state = .running) (b : Fin 8) : (withdraw b s).standing.Ok := by
  have releasedOf : ∀ k : BayState, s.bayState b = k → ¬ k.engaged → (releaseBay b s).standing.Ok := by
    rintro k rfl hk
    rw [standing_releaseBay]
    exact h.put hd hk (by simp [BayState.engaged])
  rw [withdraw]
  split
  case h_4 hb => exact releasedOf _ hb (by simp [BayState.engaged])
  case h_5 hb =>
    rw [standing_releaseBay, standing_setChecker, Option.map_none]
    exact h.endCheck ((h.checking b).mp hb) (by simp [BayState.engaged])
  case h_6 hb => exact releasedOf _ hb (by simp [BayState.engaged])
  case h_7 hb =>
    rw [standing_releaseBay, standing_setLoader, Option.map_none]
    exact h.endLoad ((h.loading b).mp hb) (.inl (by simp [BayState.engaged]))
  case h_8 => exact standingOk_modifyBay h b _ fun _ => rfl
  case h_9 hb =>
    rw [standing_setLive, standing_releaseBay]
    exact h.withdrawLive hd hb
  all_goals exact h

/-- The withdraw part of a scan keeps the bounds (R81). -/
theorem standingOk_scanWithdraw (hd : s.device.state = .running) (b : Fin 8) (r : BayRecord) :
    (scanWithdraw b r s).standing.Ok := by
  rw [scanWithdraw]
  split
  · exact standingOk_withdraw h hd b
  · exact h

/-- The go part of a scan keeps the bounds (R82). -/
theorem standingOk_scanGo (hd : s.device.state = .running) (b : Fin 8) (r : BayRecord) : (scanGo b r s).standing.Ok := by
  rw [scanGo]
  split
  · have taken := standingOk_modifyBay h b (fun bay => { bay with goTaken := r.goRequest }) fun _ => rfl
    exact standingOk_giveGo (standingOk_congr taken) (by simp [hd]) b
  · exact h

/-- The scan of a bay keeps the bounds (R79). -/
theorem standingOk_scanBay (hd : s.device.state = .running) (b : Fin 8) (r : BayRecord) :
    (scanBay b r s).standing.Ok := by
  have latched := standingOk_modifyBay h b (fun bay => { bay with autoGo := r.autoGo, binding := r.binding }) fun _ => rfl
  have offered := standingOk_scanOffer latched (by simpa using hd) b r
  have withdrawn := standingOk_scanWithdraw offered (by simpa using hd) b r
  exact standingOk_scanGo withdrawn (by simpa using hd) b r

/-- The scan keeps the bounds: the records read, the bays dealt with, the held states rewritten (R74, R79). -/
theorem standingOk_scan (hd : s.device.state = .running) : (scan s).standing.Ok := by
  have read := foldl_preserves (fun t : State => t.standing.Ok ∧ t.device.state = .running)
    (fun t b => afterControlRead (bayOffset b) bayRecordBytes t)
    (fun t b ⟨ht, hr⟩ => ⟨standingOk_congr ht, by simpa using hr⟩) (allOf 8) s ⟨h, hd⟩
  have dealt := foldl_preserves (fun t : State => t.standing.Ok ∧ t.device.state = .running)
    (fun t b => scanBay b (s.bayRecord b) t)
    (fun t b ⟨ht, hr⟩ => ⟨standingOk_scanBay ht hr b _, by simpa using hr⟩) (allOf 8) _ read
  exact foldl_preserves (fun t => t.standing.Ok) (fun t b => rewriteHeld b t) (fun t b ht => standingOk_congr ht) (allOf 8) _
    dealt.1

/-- The Bay Controller's response to an output frame start keeps the bounds (R77). -/
theorem standingOk_baysPart : (baysPart s).standing.Ok := by
  rw [baysPart]
  split
  · rename_i hd
    exact standingOk_startCheck (standingOk_scan (standingOk_exchange h) (by simpa using hd))
  · exact h

/-- The selection for a passed edge keeps the bounds (R91). -/
theorem standingOk_serveEdge (hd : s.device.state = .running) (edge : Fin 4 × Direction) :
    (serveEdge edge s).standing.Ok := by
  rw [serveEdge]
  split
  · exact h
  · split
    · exact standingOk_giveGo h hd _
    · split
      · exact standingOk_giveGo h hd _
      · exact standingOk_congr h

/-- An edge taken by the Bay Controller keeps the bounds (R91, R110). -/
theorem standingOk_takeEdge (l : Fin 4) : (takeEdge l s).standing.Ok := by
  rw [takeEdge]
  split
  · exact h
  · split
    · rename_i e _ hd
      have taken : (s.setTriggers { s.triggers with edges := s.triggers.edges.erase e }).standing.Ok := standingOk_congr h
      exact standingOk_serveEdge taken hd _
    · exact h

/-- The edges taken before the response to a start keep the bounds (R110). -/
theorem standingOk_triggersPart (early : List (Fin 4)) : (triggersPart early s).standing.Ok :=
  foldl_preserves (fun t => t.standing.Ok) (fun t l => takeEdge l t) (fun _ l ht => standingOk_takeEdge ht l) early _
    (standingOk_congr h)

end

/-! ## START, STOP and the resets -/

/-- Entry to STOPPING leaves no bay CHECKING, LOADING or STAGED (R95). -/
theorem stoppedShadow_state_ne (bay : Bay) : (stoppedShadow bay).state ≠ .checking ∧
    (stoppedShadow bay).state ≠ .loading ∧ (stoppedShadow bay).state ≠ .staged := by
  cases hk : bay.state <;> simp [stoppedShadow, hk]

/-- Entry to STOPPING keeps the live bay (R95). -/
theorem stoppedShadow_state_live (bay : Bay) : (stoppedShadow bay).state = .live ↔ bay.state = .live := by
  cases hk : bay.state <;> simp [stoppedShadow, hk]

/-- The shadow states after entry to STOPPING. -/
theorem bayState_enterStopping (s : State) (b : Fin 8) :
    (enterStopping s).bayState b = (stoppedShadow (s.bays.bays.get b)).state := by
  simp [State.bayState, enterStopping, shadow_stopBays]

/-- Entry to STOPPING abandons the check and the load (R95). -/
theorem reader_enterStopping (s : State) :
    (enterStopping s).reader.checker = none ∧ (enterStopping s).reader.loader = none := by
  have kept : ∀ u : State, ((allOf 8).foldl (fun t b => stopBay b t) u).reader = u.reader :=
    foldl_keeps State.reader _ (by simp) _
  simp [enterStopping, stopBays, kept]

/-- The end of a STOP leaves no bay READY or LIVE (R96). -/
theorem endedShadow_state_ne (bay : Bay) : (endedShadow bay).state ≠ .ready ∧ (endedShadow bay).state ≠ .live := by
  rw [endedShadow]
  split
  · simp
  · rename_i hn
    exact not_or.mp hn

/-- The shadow states after the end of a STOP. -/
theorem bayState_endStop (s : State) (b : Fin 8) :
    (endStop s).bayState b = (endedShadow (s.bays.bays.get b)).state := by
  simp [State.bayState, endStop, shadow_endBays]

/-- After the end of a STOP no bay is live (R96). -/
theorem liveBay_endStop (s : State) : (endStop s).bays.liveBay = none := by
  have none_live : ∀ u : State, (endBays u).bays.liveBay = none := fun _ => rfl
  simp [endStop, none_live]

/-- The shadow states after entry to RUNNING: EMPTY, REJECTED or RELEASED (R94). -/
theorem bayState_enterRunning (now : Nat) (pins : BitVec 4) (hd : Header) (returned : List (StartBlock × List Byte))
    (s : State) (b : Fin 8) : (enterRunning now pins hd returned s).bayState b = .empty ∨
      (enterRunning now pins hd returned s).bayState b = .rejected ∨
      (enterRunning now pins hd returned s).bayState b = .released := by
  have normal : ∀ code, (normalState code).1 = .empty ∨ (normalState code).1 = .rejected ∨
      (normalState code).1 = .released := by
    intro code
    rw [normalState]
    split
    · exact .inl rfl
    · split
      · exact .inr (.inl rfl)
      · split <;> exact .inr (.inr rfl)
  simpa [State.bayState, enterRunning, shadow_normalise, normalShadow] using normal _

/-- A device reset leaves every bay EMPTY and both banks blank (R73, R183). -/
theorem standingOk_deviceReset (s : State) : (deviceReset s).standing.Ok := by
  have empty : ∀ b, (deviceReset s).bayState b = .empty := by
    simp [State.bayState, deviceReset, resetBays, resetBay]
  have none_live : (deviceReset s).bays.liveBay = none := rfl
  exact Standing.ok_of_noWork (by simp [empty]) rfl rfl (by simp [empty, none_live]) fun _ => ⟨by simp [empty], rfl, rfl⟩

section
variable {s : State} (h : s.standing.Ok)
include h

/-- A START taken while IDLE leaves the device at rest (R177). -/
theorem standingOk_takeStart : (takeStart s).standing.Ok := by
  by_cases hi : s.device.state = .idle
  · rw [standing_of_device (s := s) (t := takeStart s)]
    exact h.setDevice_of_resting (.inl hi) _
  · rwa [takeStart, if_neg hi]

/-- Entry to STOPPING returns the bays in work (R95). -/
theorem standingOk_enterStopping : (enterStopping s).standing.Ok := by
  obtain ⟨hc, hl⟩ := reader_enterStopping s
  refine Standing.ok_of_noWork (fun b => ?_) (by simp [hc]) (by simp [hl]) (fun b => ?_) fun hr => ?_
  · rw [standing_bay, bayState_enterStopping]
    exact stoppedShadow_state_ne _
  · rw [standing_bay, bayState_enterStopping, stoppedShadow_state_live]
    simpa [State.bayState] using h.live b
  · rcases hr with hr | hr <;> simp [enterStopping] at hr

/-- A STOP keeps the bounds in every device state (R179, R181). -/
theorem standingOk_takeStop : (takeStop s).standing.Ok := by
  rw [takeStop]
  split
  case h_2 hs =>
    rw [standing_of_device (s := s) (t := leaveStarting s)]
    exact h.setDevice_of_resting (.inr hs) _
  case h_3 => exact standingOk_enterStopping h
  all_goals exact h

/-- The end of a STOP leaves no bay READY or LIVE and blanks both banks (R28, R96). -/
theorem standingOk_endStop (hd : s.device.state ≠ .running) : (endStop s).standing.Ok := by
  obtain ⟨hc, hl⟩ := h.walks_none hd
  refine Standing.ok_of_noWork (fun b => ?_) (by simpa using hc) (by simpa using hl) (fun b => ?_)
    fun _ => ⟨fun b => ?_, ?_⟩
  · rw [standing_bay, bayState_endStop, endedShadow]
    split
    · simp
    · exact h.quiet hd b
  · rw [standing_bay, bayState_endStop]
    simp [endedShadow_state_ne, liveBay_endStop]
  · rw [standing_bay, bayState_endStop]
    exact endedShadow_state_ne _
  · simp [endStop_store, TableStore.blankBoth]

/-- Entry to RUNNING finds no walk and no live bay, and leaves no bay in work (R94, R180). -/
theorem standingOk_enterRunning (hr : s.atRest) (now : Nat) (pins : BitVec 4) (hd : Header)
    (returned : List (StartBlock × List Byte)) : (enterRunning now pins hd returned s).standing.Ok := by
  have hrest : s.standing.device.resting := hr
  have hbay := bayState_enterRunning now pins hd returned s
  obtain ⟨hc, hl⟩ := h.walks_none hrest.ne_running
  have hlive : s.bays.liveBay = none := h.live_none hrest
  refine Standing.ok_of_noWork (fun b => ?_) (by simpa using hc) (by simpa using hl) (fun b => ?_) fun hrun => ?_
  · rcases hbay b with e | e | e <;> simp [e]
  · rcases hbay b with e | e | e <;> simp [e, hlive]
  · rcases hrun with e | e <;> simp [enterRunning] at e

/-- The registers and the accesses held stand beside the bounds. -/
theorem standingOk_setLink (v : LinkEndpoint) : (s.setLink v).standing.Ok := standingOk_congr h

/-- A register access keeps the bounds (R185). -/
theorem standingOk_performRegister (a : RegisterAccess) : (performRegister a s).standing.Ok := by
  cases a with
  | start => exact standingOk_takeStart h
  | stop => exact standingOk_takeStop h
  | reset => exact standingOk_deviceReset s
  | areaBase w =>
    simp only [performRegister]
    split
    · exact standingOk_congr h
    · exact h
  | notice w => exact standingOk_setLink h _
  | noticeEnable w => exact standingOk_setLink h _
  | ignored => exact h

/-- An access that the link delivers keeps the bounds (R185). -/
theorem standingOk_deliver (a : RegisterAccess) : (deliver a s).standing.Ok := by
  rw [deliver]
  split
  · exact standingOk_performRegister h a
  · exact standingOk_congr h

/-- The blocks' responses keep the bounds; the start that ends a STOP comes while STOPPING (R182). -/
theorem standingOk_blocksAtFrameStart (ending : Bool) (early : List (Fin 4))
    (he : ending = true → s.device.state ≠ .running) : (blocksAtFrameStart ending early s).standing.Ok := by
  have hb : (baysPart (triggersPart early s)).standing.Ok := standingOk_baysPart (standingOk_triggersPart h early)
  simp only [blocksAtFrameStart]
  split
  · rename_i hend
    exact standingOk_endStop (standingOk_congr hb) (by simpa using he hend)
  · exact standingOk_congr hb

/-- An output frame start keeps the bounds (R135). -/
theorem standingOk_issueFrameStart (now : Nat) (order : StartOrder) : (issueFrameStart now order s).standing.Ok := by
  have counted : (countStop (setTimingNoticed (s.timing.startAt now) s)).standing.Ok := standingOk_congr h
  have hend : s.ending = true → s.device.state ≠ .running := by
    intro he
    simp only [State.ending, decide_eq_true_eq] at he
    simp [he.1]
  have acknowledged : ∀ {u : State}, u.standing.Ok → (acknowledgeFault u).standing.Ok :=
    fun {u} hu => standingOk_congr (t := acknowledgeFault u) hu
  have snapped : ∀ {u : State}, u.standing.Ok → (snapshot u).standing.Ok :=
    fun {u} hu => standingOk_congr (t := snapshot u) hu
  simp only [issueFrameStart]
  split
  · exact snapped (standingOk_blocksAtFrameStart (acknowledged counted) _ _ (by simpa using hend))
  · exact snapped (acknowledged (standingOk_blocksAtFrameStart counted _ _ (by simpa using hend)))

/-- An output frame start where one is due keeps the bounds. -/
theorem standingOk_issueIf (due : Bool) (now : Nat) (order : StartOrder) : (issueIf due now order s).standing.Ok := by
  rw [issueIf]
  split
  · exact standingOk_issueFrameStart h now order
  · exact h

end

/-! ## A walk keeps its bay (R58, R65) -/

section
variable (l : Layout) (w : Walk)

/-- A walk that fails keeps its bay. -/
@[simp] theorem Walk.bay_fail (r : RejectReason) (i : Nat) : (w.fail r i).bay = w.bay := rfl

/-- A walk that moves on keeps its bay (R49). -/
@[simp] theorem Walk.bay_advance : w.advance.bay = w.bay := by
  simp only [Walk.advance]
  split <;> rfl

/-- A walk at END keeps its bay (R60). -/
theorem Walk.bay_finish : (w.finish l).1.bay = w.bay := by
  simp only [Walk.finish, Walk.complete]
  split
  · rfl
  · split
    · rfl
    · split <;> rfl

/-- A walk whose item takes effect keeps its bay (R59). -/
theorem Walk.bay_act (item : List Byte) (a : ItemAction) : (w.act l item a).1.bay = w.bay := by
  cases a with
  | headTag tag =>
    simp only [Walk.act]
    split <;> simp
  | openScope scope => simp [Walk.act]
  | takeMesh scope m =>
    simp only [Walk.act]
    split <;> rfl
  | takeValues scope k => simp [Walk.act]
  | takeEncode scope count last =>
    simp only [Walk.act]
    split
    · simp
    · rfl
  | takeDecode count last =>
    simp only [Walk.act]
    split
    · simp [Walk.takeDecode]
    · rfl
  | nothing => simp [Walk.act]
  | finish => exact Walk.bay_finish l w

/-- A walk whose item is read keeps its bay (R59). -/
theorem Walk.bay_onItem (item : List Byte) : (w.onItem l item).1.bay = w.bay := by
  simp only [Walk.onItem]
  split
  · rfl
  · exact Walk.bay_act l _ item _

/-- A walk whose read is complete keeps its bay. -/
theorem Walk.bay_consume (bytes : List Byte) : (w.consume l bytes).1.bay = w.bay := by
  rw [Walk.consume]
  split
  · simp only [Walk.onHeader]
    split
    · rfl
    · exact Walk.bay_onItem l w bytes
  · exact Walk.bay_onItem l w _
  · simp only [Walk.onPoints]
    split
    · rfl
    · simp
  · simp
  · simp [Walk.takeDecode]

/-- A walk whose burst has returned keeps its bay (R62). -/
theorem Walk.bay_onBurst (bytes : List Byte) (failed : Bool) : (w.onBurst l bytes failed).1.bay = w.bay := by
  rw [Walk.onBurst]
  split
  · rfl
  · split
    · rfl
    · split
      · exact Walk.bay_consume l _ _
      · rfl

end

/-! ## The bursts (R66, R167) -/

/-- A walk put back with its bay leaves the bays that the walks name (R70). -/
theorem EditionReader.putBack_bay {r : EditionReader} {user : Reader} {w v : Walk} (hw : r.walk user = some w)
    (hv : v.bay = w.bay) : (r.putBack user v).checker.map Walk.bay = r.checker.map Walk.bay ∧
      (r.putBack user v).loader.map Walk.bay = r.loader.map Walk.bay := by
  cases user with
  | checker =>
    have hw : r.checker = some w := hw
    simp [EditionReader.putBack, EditionReader.present, hw, hv]
  | loader =>
    have hw : r.loader = some w := hw
    simp [EditionReader.putBack, EditionReader.present, hw, hv]

section
variable {s : State} (h : s.standing.Ok)
include h

/-- A walk in progress shows that the device is RUNNING (R95). -/
theorem running_of_walk {user : Reader} {w : Walk} (hw : s.reader.walk user = some w) : s.device.state = .running := by
  cases user with
  | checker =>
    have hw : s.reader.checker = some w := hw
    exact h.running_of_checker (b := w.bay) (by simp [hw])
  | loader =>
    have hw : s.reader.loader = some w := hw
    exact h.running_of_loader (b := w.bay) (by simp [hw])

/-- A burst of a walk keeps the bounds: the walk keeps its bay, and the banks are written while RUNNING alone (R66). -/
theorem standingOk_walkBurst (size : Nat) {user : Reader} {w : Walk} (hw : s.reader.walk user = some w) (job : ReadJob) :
    (walkBurst size user w job s).standing.Ok := by
  obtain ⟨hc, hl⟩ := EditionReader.putBack_bay hw (Walk.bay_onBurst s.layout w
    (s.memory.readBytes job.address (burstSize size job.address job.left))
    (readFails job.address (burstSize size job.address job.left) s))
  have hd : s.device.state = .running := running_of_walk h hw
  have hs : (walkBurst size user w job s).standing =
      { s.standing with
        bankA := (walkBurst size user w job s).store.bankA
        bankB := (walkBurst size user w job s).store.bankB } := by
    ext1
    case bay => exact funext (bayState_of_bays' (by simp))
    case checker => simpa [walkBurst] using hc
    case loader => simpa [walkBurst] using hl
    all_goals simp
  rw [hs]
  exact h.setBanks (by simp [DeviceState.resting, hd]) _ _

/-- The edition reader's burst keeps the bounds (R70). -/
theorem standingOk_editionBurst (size : Nat) : (editionBurst size s).standing.Ok := by
  rw [editionBurst]
  split
  · exact h
  · split
    · exact h
    · rename_i hw
      split
      · exact h
      · exact standingOk_walkBurst h size hw _

/-- Performing the register accesses delivered next keeps the bounds (R185). -/
theorem standingOk_drain (q : List LinkAccess) : (drain q s).standing.Ok := by
  induction q generalizing s with
  | nil => exact standingOk_setLink h _
  | cons a q ih =>
    cases a with
    | register a => exact ih (standingOk_performRegister (standingOk_setLink h _) a)
    | write address data => exact standingOk_setLink h _
    | read address length got => exact standingOk_setLink h _

/-- The host link's burst keeps the bounds (R167, R185). -/
theorem standingOk_hostBurst : (hostBurst s).standing.Ok := by
  rw [hostBurst]
  split
  · exact h
  · exact h
  · simp only [hostWriteBurst]
    split
    · exact standingOk_drain (standingOk_congr h) _
    · exact standingOk_congr h
  · simp only [hostReadBurst]
    split
    · exact standingOk_drain (standingOk_congr h) _
    · exact standingOk_congr h

/-- A granted burst keeps the bounds (R168). -/
theorem standingOk_performBurst (size : Nat) (r : Requester) : (performBurst size r s).standing.Ok := by
  cases r with
  | captureWriter => exact standingOk_congr h (t := captureBurst size s)
  | fetcher c => exact standingOk_congr h (t := fetchBurst size c s)
  | hostLink => exact standingOk_hostBurst h
  | editionReader => exact standingOk_editionBurst h size
  | statusWriter => exact standingOk_congr h (t := statusBurst s)

end

/-! ## Every command and every step -/

/-- A command that leads on to a state leads on to one that satisfies `P`. -/
def Result.Leads (r : Result) (P : State → Prop) : Prop := ∀ t, r = .next t → P t

/-- A command that leads on to one state leads to what that state satisfies. -/
theorem leads_next {P : State → Prop} {t : State} (h : P t) : Result.Leads (.next t) P := by
  rintro _ ⟨⟩
  exact h

/-- A command that stops leads on to no state. -/
theorem leads_fault {P : State → Prop} (f : Fault) : Result.Leads (.fault f) P := by
  rintro _ ⟨⟩

section
variable {s : State} (h : s.standing.Ok)
include h

/-- CHECK_DONE keeps the bounds (R83 to R85). -/
theorem standingOk_checkDone : (execCheckDone s).Leads fun t => t.standing.Ok := by
  rw [execCheckDone]
  split
  · exact leads_next h
  · rename_i hw
    exact leads_next (standingOk_startCheck (standingOk_applyCheck h (eq_some_of_finished hw) _))

/-- LOAD_DONE keeps the bounds (R89). -/
theorem standingOk_loadDone : (execLoadDone s).Leads fun t => t.standing.Ok := by
  rw [execLoadDone]
  split
  · exact leads_next h
  · rename_i hw
    exact leads_next (standingOk_applyLoad h (eq_some_of_finished hw) _)

/-- PASSED_EDGE keeps the bounds (R91). -/
theorem standingOk_passedEdge : (execPassedEdge s).Leads fun t => t.standing.Ok := by
  rw [execPassedEdge]
  split
  · exact leads_next h
  · split
    · exact leads_next (standingOk_takeEdge (s := s.setTriggers _) (standingOk_congr h (t := s.setTriggers _)) _)
    · exact leads_next h

/-- The refusal of a START leaves the device at rest (R179). -/
theorem standingOk_refuseProfile (hr : s.atRest) (reason : StartRefusal) : (refuseProfile reason s).standing.Ok := by
  rw [standing_of_device (s := s) (t := refuseProfile reason s)]
  exact h.setDevice_of_resting hr _

/-- VALIDATION_DONE keeps the bounds, whether the profile is refused or the device enters RUNNING (R179, R180). -/
theorem standingOk_validationDone (now : Nat) (pins : BitVec 4) :
    (execValidationDone now pins s).Leads fun t => t.standing.Ok := by
  rw [execValidationDone]
  split
  · rename_i hread
    have hs : s.device.state = .starting := by
      simp only [State.readsReturned, decide_eq_true_eq] at hread
      exact hread.1
    dsimp only
    split
    · exact leads_next (standingOk_enterRunning h (.inr hs) now pins _ _)
    · exact leads_next (standingOk_refuseProfile h (.inr hs) _)
  · exact leads_next h

/-- OUTPUT_FRAME_START keeps the bounds (R135). -/
theorem standingOk_outputFrameStart (order : StartOrder) : (execOutputFrameStart order s).Leads fun t => t.standing.Ok := by
  rw [execOutputFrameStart]
  split
  · exact leads_next h
  · exact leads_next (standingOk_issueIf h _ _ _)

/-- MISSING_START_DEADLINE keeps the bounds (R143). -/
theorem standingOk_missingStartDeadline (order : StartOrder) :
    (execMissingStartDeadline order s).Leads fun t => t.standing.Ok := by
  rw [execMissingStartDeadline]
  split
  · exact leads_next h
  · exact leads_next (standingOk_issueIf (standingOk_congr h) _ _ _)

/-- BURST_GRANT keeps the bounds (R168). -/
theorem standingOk_burstGrant (size : Nat) : (execBurstGrant size s).Leads fun t => t.standing.Ok := by
  rw [execBurstGrant]
  split
  · exact leads_next h
  · exact leads_next (standingOk_performBurst (standingOk_congr h (t := s.setArbiter _)) size _)

/-- FORMAT_ANNOUNCEMENT leaves the bays and the banks (R119). -/
theorem standingOk_formatAnnouncement (format : Format) :
    (execFormatAnnouncement format s).Leads fun t => t.standing.Ok := by
  rw [execFormatAnnouncement]
  split
  · exact leads_next h
  · exact leads_next (standingOk_congr h (t := followLink _ s))

/-- FILL_DONE leaves the bays and the banks (R123). -/
theorem standingOk_fillDone : (execFillDone s).Leads fun t => t.standing.Ok := by
  rw [execFillDone]
  split
  · exact leads_next (standingOk_congr h (t := changeCapture _ s))
  · exact leads_next h

/-- HOST_WRITE is held, or stops past the end of frame memory (R167). -/
theorem standingOk_hostWrite (address : Nat) (data : List Byte) :
    (execHostWrite address data s).Leads fun t => t.standing.Ok := by
  rw [execHostWrite]
  split
  · exact leads_fault _
  · split
    · exact leads_next h
    · exact leads_next (standingOk_congr h (t := delay _ s))

/-- HOST_READ is held, or stops past the end of frame memory (R167). -/
theorem standingOk_hostRead (address length : Nat) : (execHostRead address length s).Leads fun t => t.standing.Ok := by
  rw [execHostRead]
  split
  · exact leads_fault _
  · split
    · exact leads_next h
    · exact leads_next (standingOk_congr h (t := delay _ s))

/-- LOSS_OF_LOCK leaves the bays and the banks (R151). -/
theorem standingOk_lossOfLock (p : Fin 6) : (execLossOfLock p s).Leads fun t => t.standing.Ok := by
  rw [execLossOfLock]
  split
  · exact leads_next (standingOk_congr h (t := changePort p _ s))
  · exact leads_next h

/-- TRAINING_DONE leaves the bays and the banks (R152). -/
theorem standingOk_trainingDone (p : Fin 6) (result : TrainingResult) :
    (execTrainingDone p result s).Leads fun t => t.standing.Ok := by
  rw [execTrainingDone]
  split
  · split
    · exact leads_next (standingOk_congr h (t := changePort p _ s))
    · exact leads_next (standingOk_congr h (t := failAttempt p s))
  · exact leads_next h

/-- RENDER_PIXEL leaves the bays and the banks (R156). -/
theorem standingOk_renderPixel (c : Fin 6) : (execRenderPixel c s).Leads fun t => t.standing.Ok := by
  rw [execRenderPixel]
  split
  · exact leads_next (standingOk_congr h (t := modifyChannel c _ (computePixel c s)))
  · exact leads_next h

/-- PIXEL_DUE leaves the bays and the banks (R157). -/
theorem standingOk_pixelDue (p : Fin 6) : (execPixelDue p s).Leads fun t => t.standing.Ok := by
  rw [execPixelDue]
  split
  · exact leads_next (standingOk_congr h (t := modifyPort p _ (sendPixel p s)))
  · exact leads_next h

end

/-- Every command keeps the bounds. -/
theorem standingOk_exec {s : State} (h : s.standing.Ok) (i : Instr) : Result.Leads (exec i s) fun t => t.standing.Ok := by
  cases i with
  | start => exact leads_next (standingOk_deliver h _)
  | stop => exact leads_next (standingOk_deliver h _)
  | reset => exact leads_next (standingOk_deliver h _)
  | areaBaseWrite w => exact leads_next (standingOk_deliver h _)
  | noticeClear w => exact leads_next (standingOk_deliver h _)
  | noticeEnableWrite w => exact leads_next (standingOk_deliver h _)
  | registerWriteIgnored r w => exact leads_next (standingOk_deliver h _)
  | powerOnReset found => exact leads_next (t := powerOn found s) (standingOk_deviceReset s)
  | pciExpressLinkReset => exact leads_next (standingOk_congr h (t := linkReset s))
  | hostWrite address data => exact standingOk_hostWrite h address data
  | hostRead address length => exact standingOk_hostRead h address length
  | presenceChange format => exact leads_next (standingOk_congr h (t := followLink format s))
  | formatAnnouncement format => exact standingOk_formatAnnouncement h format
  | inputFrameStart time order =>
    exact leads_next (standingOk_issueIf
      (standingOk_congr h (t := setTimingNoticed (s.timing.onInput time) (changeCapture Capture.onInput s))) _ _ _)
  | line pixels => exact leads_next (standingOk_congr h (t := changeCapture _ s))
  | fillDone => exact standingOk_fillDone h
  | outputFrameStart order => exact standingOk_outputFrameStart h order
  | missingStartDeadline order => exact standingOk_missingStartDeadline h order
  | validationDone time pins => exact standingOk_validationDone h time pins
  | checkDone => exact standingOk_checkDone h
  | loadDone => exact standingOk_loadDone h
  | passedEdge => exact standingOk_passedEdge h
  | filteredLevelChange l => exact leads_next (standingOk_congr h (t := filterChange l s))
  | holdOffExpiry l => exact leads_next (standingOk_congr h (t := holdOffExpiry l s))
  | presenceRise p => exact leads_next (standingOk_congr h (t := presenceRise p s))
  | presenceFall p => exact leads_next (standingOk_congr h (t := presenceFall p s))
  | lossOfLock p => exact standingOk_lossOfLock h p
  | trainingDone p result => exact standingOk_trainingDone h p result
  | attemptTimerExpiry p => exact leads_next (standingOk_congr h (t := attemptExpiry p s))
  | retryTimerExpiry p => exact leads_next (standingOk_congr h (t := retryExpiry p s))
  | burstGrant size => exact standingOk_burstGrant h size
  | renderPixel c => exact standingOk_renderPixel h c
  | pixelDue p => exact standingOk_pixelDue h p
  | sampleTick pins presence =>
    exact leads_next (standingOk_congr h (t := tickPorts presence (tickLines pins (settleTick s))))

/-- Every step keeps the bounds. -/
theorem standingOk_step {s t : State} (h : s.standing.Ok) (hs : step s = .next t) : t.standing.Ok := by
  rw [step] at hs
  split at hs
  · cases hs
    exact h
  · exact standingOk_exec (s := s.setPending _) (standingOk_congr h) _ t hs

/-- Settles O56: the bounds are kept command by command, and what has one number or one walk to name it is one bay. -/
theorem baysAndBanksKept : Obligations.BaysAndBanksKept := by
  intro s t hbays hbanks hs
  have h : t.standing.Ok := standingOk_step ((standingOk_iff s).mpr ⟨hbays, hbanks⟩) hs
  obtain ⟨tbays, tbanks⟩ := (standingOk_iff t).mp h
  refine ⟨tbays, tbanks, fun a b ha hb => ?_, fun a b ha hb => ?_, h.oneLoad⟩
  · exact Option.some.inj (((h.live a).mp ha).symm.trans ((h.live b).mp hb))
  · exact Option.some.inj (((h.checking a).mp ha).symm.trans ((h.checking b).mp hb))

/-! ## The Loader's writes (R26 to R42, R65, R66) -/

namespace Bank

section
variable (b : Bank) (c : Fin 6) (f : ChannelTables → ChannelTables) (p : TableWord → Bool) (x : TableWord)

/-- The record of the channel changed. -/
theorem get_modifyChannel_self : (b.modifyChannel c f).channels.get c = f (b.channels.get c) :=
  Arr.get_modify_self _ c f

/-- The record of another channel. -/
theorem get_modifyChannel_ne {d : Fin 6} (h : d ≠ c) : (b.modifyChannel c f).channels.get d = b.channels.get d :=
  Arr.get_modify_ne _ c d f h

/-- Fresh parity: a word's stored parity fails to match where it did before and the word was not written (R42). -/
theorem mem_bad_freshen {written : TableWord → Prop} (h : ∀ x, p x = true ↔ written x) :
    x ∈ (b.freshen p).bad ↔ x ∈ b.bad ∧ ¬ written x := by
  simp [freshen, ← h]

/-- A write of one channel's table changes that table alone (R40). -/
theorem tableWrite_keeps : ((b.modifyChannel c f).freshen p).channels.get c = f (b.channels.get c) ∧
    (∀ d, d ≠ c → ((b.modifyChannel c f).freshen p).channels.get d = b.channels.get d) ∧
    ((b.modifyChannel c f).freshen p).pool = b.pool ∧ ((b.modifyChannel c f).freshen p).decode = b.decode :=
  ⟨b.get_modifyChannel_self c f, fun _ h => b.get_modifyChannel_ne c f h, rfl, rfl⟩

/-- The matrix words of a channel (R42). -/
theorem isMatrix_iff : isMatrix c x = true ↔ ∃ i, x = .matrix c i := by
  cases x <;> simp [isMatrix]

/-- The ramp words of a channel (R42). -/
theorem isRamp_iff : isRamp c x = true ↔ ∃ i, x = .ramp c i := by
  cases x <;> simp [isRamp]

/-- The uplift words of a channel (R42). -/
theorem isUplift_iff : isUplift c x = true ↔ ∃ i, x = .uplift c i := by
  cases x <;> simp [isUplift]

/-- The encode words of a channel (R42). -/
theorem isEncode_iff : isEncode c x = true ↔ ∃ i, x = .encode c i := by
  cases x <;> simp [isEncode]

/-- The decode words of a bank (R42). -/
theorem isDecode_iff : isDecode x = true ↔ ∃ i, x = .decode i := by
  cases x <;> simp [isDecode]

/-- The words that a mesh covers: its mark, its geometry and its points (R40, R42; log 18). -/
theorem meshWords_iff (base count : Nat) : meshWords c base count x = true ↔
    x = .meshMark c ∨ x = .geometry c ∨ ∃ i, base ≤ i ∧ i < base + count ∧ x = .point i := by
  cases x <;> simp [meshWords]

end

section
variable {pool : List MeshPoint} {base : Nat} {points : List MeshPoint} (h : base + points.length ≤ pool.length)
include h

/-- Where the points fit, they replace as many entries from the base upward (R30). -/
theorem splice_of_fits : splice pool base points = pool.take base ++ (points ++ pool.drop (base + points.length)) := by
  rw [splice, List.take_of_length_le (l := points) (by omega)]

/-- Points that fit leave the size of the pool (R33). -/
theorem length_splice : (splice pool base points).length = pool.length := by
  rw [splice_of_fits h]
  simp only [List.length_append, List.length_take, List.length_drop]
  omega

/-- The points of a mesh stand from the base upward (R30). -/
theorem getElem?_splice_of_mem {i : Nat} (hi : i < points.length) : (splice pool base points)[base + i]? = points[i]? := by
  have ht : (pool.take base).length = base := by simp; omega
  rw [splice_of_fits h, List.getElem?_append_right (by omega), ht, Nat.add_sub_cancel_left, List.getElem?_append_left hi]

/-- Every other entry of the pool stays (R30). -/
theorem getElem?_splice_of_not_mem {i : Nat} (hi : i < base ∨ base + points.length ≤ i) :
    (splice pool base points)[i]? = pool[i]? := by
  have ht : (pool.take base).length = base := by simp; omega
  rw [splice_of_fits h]
  rcases hi with hi | hi
  · rw [List.getElem?_append_left (by omega), List.getElem?_take_of_lt hi]
  · rw [List.getElem?_append_right (by omega), List.getElem?_append_right (by omega), List.getElem?_drop, ht]
    congr 1
    omega

end

/-- A mesh written: its channel's record, and its points in the pool (R30, R40). -/
theorem write_mesh_record (b : Bank) (c : Fin 6) (g : MeshGeometry) (base : Nat) (points : List MeshPoint) :
    (b.write (.mesh c g base points)).channels.get c =
      { b.channels.get c with
        meshPresent := true, spacing := g.spacing, columns := g.columns, rows := g.rows, poolBase := base } ∧
    (∀ d, d ≠ c → (b.write (.mesh c g base points)).channels.get d = b.channels.get d) ∧
    (b.write (.mesh c g base points)).pool = splice b.pool base points :=
  ⟨b.get_modifyChannel_self c _, fun _ h => b.get_modifyChannel_ne c _ h, rfl⟩

/-- The pool after a mesh is written (R30). -/
theorem pointAt_write_mesh {b : Bank} {base : Nat} {points : List MeshPoint} (h : base + points.length ≤ b.pool.length)
    (c : Fin 6) (g : MeshGeometry) :
    (∀ i, i < base ∨ base + points.length ≤ i → (b.write (.mesh c g base points)).pointAt i = b.pointAt i) ∧
    (∀ i p, points[i]? = some p → (b.write (.mesh c g base points)).pointAt (base + i) = p) := by
  obtain ⟨-, -, hpool⟩ := b.write_mesh_record c g base points
  constructor
  · intro i hi
    rw [pointAt, hpool, List.getD_eq_getElem?_getD, getElem?_splice_of_not_mem h hi, ← List.getD_eq_getElem?_getD, pointAt]
  · intro i p hp
    obtain ⟨hi, -⟩ := List.getElem?_eq_some_iff.mp hp
    rw [pointAt, hpool, List.getD_eq_getElem?_getD, getElem?_splice_of_mem h hi, hp, Option.getD_some]

/-- What the writes after END leave of a channel record (R28, R66). -/
theorem write_finish_record (b : Bank) (marks : TakenMarks) (c : Fin 6) :
    (b.write (.finish marks)).channels.get c = finishChannel marks c (b.channels.get c) :=
  Arr.get_build _ c

/-- The writes after END give fresh parity to the words they cover (R42). -/
theorem mem_bad_write_finish (b : Bank) (marks : TakenMarks) (x : TableWord) :
    x ∈ (b.write (.finish marks)).bad ↔ x ∈ b.bad ∧ ¬ finishWords marks x = true :=
  mem_bad_freshen { b with channels := _, decode := _ } (finishWords marks) x fun _ => Iff.rfl

end Bank

/-- The writes of the Loader leave the active bank and go to the staging bank in order (R26, R66). -/
theorem applyWrites_banks (writes : List BankWrite) (s : State) :
    (applyWrites writes s).store.active = s.store.active ∧ (applyWrites writes s).store.select = s.store.select ∧
      (applyWrites writes s).store.staging = writes.foldl Bank.write s.store.staging := by
  rw [applyWrites, State.setStore_store, TableStore.modifyStaging]
  split <;> rename_i hs <;> simp [TableStore.active, TableStore.staging, TableStore.bank, TableStore.other, hs]

/-- The writes of the Loader change the Table Store alone (R66). -/
theorem sameBut_applyWrites (writes : List BankWrite) (s : State) : State.sameBut [.store] s (applyWrites writes s) := by
  intro p hp
  cases p with
  | store => exact absurd (List.mem_singleton.mpr rfl) hp
  | _ => rfl

/-- The channels before a channel are those before the one below it, and that one. -/
theorem channelsBelow_succ : ∀ d e : Fin 6, e.val = d.val + 1 →
    (allOf 6).filter (fun a => decide (a < e)) = (allOf 6).filter (fun a => decide (a < d)) ++ [d] := by
  decide

/-- The pool base of channel 0 is 0 (R33). -/
theorem poolBase_zero (summary : CheckSummary) : poolBase summary 0 = 0 := by
  have none_below : (allOf 6).filter (fun a => decide (a < 0)) = [] := by decide
  rw [poolBase, none_below]
  rfl

/-- A channel's mesh lies after the share of the channel before it (R33, R65). -/
theorem poolBase_succ (summary : CheckSummary) {d e : Fin 6} (h : e.val = d.val + 1) :
    poolBase summary e = poolBase summary d + meshSizeOf (summary.meshes.get d) := by
  rw [poolBase, channelsBelow_succ d e h, List.map_append, List.sum_append, List.map_singleton, List.sum_singleton,
    poolBase]

/-- The pool of a blank bank (R28). -/
theorem blankBank_pool : blankBank.pool.length = 65536 ∧ ∀ i < 65536, blankBank.pointAt i = blankPoint := by
  have hpool : blankBank.pool = List.replicate Config.poolEntries blankPoint := rfl
  refine ⟨by rw [hpool, List.length_replicate, Config.poolEntries], fun i hi => ?_⟩
  rw [Bank.pointAt, hpool]
  exact List.getD_replicate blankPoint hi

/-- Settles O47: write by write, then the pool bases, the points as parsed, and the blank bank. -/
theorem bankWrites : Obligations.BankWrites := by
  intro s writes b c old channelOnly fresh
  obtain ⟨hactive, hselect, hstaging⟩ := applyWrites_banks writes s
  refine ⟨sameBut_applyWrites writes s, hactive, hselect, hstaging, ?_, ?_, ?_, ?_, ?_, ?_, ?_, ?_, fun _ _ => rfl, ?_⟩
  · intro g base points hlen hfit n
    obtain ⟨hself, hother, hpool⟩ := b.write_mesh_record c g base points
    obtain ⟨hout, hin⟩ := Bank.pointAt_write_mesh (b := b) (hlen ▸ hfit) c g
    refine ⟨hself, hother, rfl, ?_, hout, hin, fun x => ?_⟩
    · rw [hpool, Bank.length_splice (hlen ▸ hfit), hlen]
    · exact Bank.mem_bad_freshen _ _ x fun y => Bank.meshWords_iff c y base points.length
  · exact fun v => ⟨b.tableWrite_keeps c _ _, fun x => Bank.mem_bad_freshen _ _ x (Bank.isMatrix_iff c)⟩
  · exact fun v => ⟨b.tableWrite_keeps c _ _, fun x => Bank.mem_bad_freshen _ _ x (Bank.isRamp_iff c)⟩
  · exact fun v => ⟨b.tableWrite_keeps c _ _, fun x => Bank.mem_bad_freshen _ _ x (Bank.isUplift_iff c)⟩
  · exact fun v => ⟨b.tableWrite_keeps c _ _, fun x => Bank.mem_bad_freshen _ _ x (Bank.isEncode_iff c)⟩
  · exact fun v => ⟨rfl, rfl, rfl, fun x => Bank.mem_bad_freshen _ _ x (Bank.isDecode_iff)⟩
  · intro marks n taken
    refine ⟨b.write_finish_record marks c, rfl, rfl, fun x => ?_⟩
    refine (Bank.mem_bad_write_finish b marks x).trans (and_congr_right fun _ => not_congr ?_)
    cases x <;> simp [Bank.finishWords, taken]
  · intro summary
    have hbase : ∀ d, (planOf summary).bases.get d = poolBase summary d := fun d => Arr.get_build _ d
    refine ⟨rfl, by rw [hbase, poolBase_zero], fun d e he => ?_⟩
    rw [hbase, hbase, poolBase_succ summary he]
    rfl
  · obtain ⟨hlen, hpoint⟩ := blankBank_pool
    exact ⟨Arr.get_replicate _ c, by rw [blankBank, defaultDecode], rfl, hlen, hpoint⟩

/-! ## The values after power-on reset, and the bounds there (R28, R73, R99, R116, R134, R184) -/

/-- Settles O2: each value is that of its block's reset value, a row's that of the thing it repeats. -/
theorem resetValues : Obligations.ResetValues := by
  refine ⟨rfl, rfl, rfl, rfl, rfl, rfl, rfl, by decide, rfl, rfl, rfl, rfl, rfl, fun n => ?slot, fun b => ?bay, rfl, rfl,
    rfl, rfl, rfl, rfl, rfl, rfl, fun c => ?channel, fun p => ?port, rfl, rfl, fun l => ⟨false, ?line⟩, rfl, rfl, rfl, rfl,
    rfl, rfl, rfl⟩
  case slot => exact Arr.get_replicate _ n
  case bay => exact Arr.get_replicate _ b
  case channel => simp [State.reset, resetChannel]
  case port => simp [State.reset, resetPort]
  case line => exact Arr.get_replicate _ l

/-- A row of one thing, changed alike, is a row of one thing. -/
theorem map_replicate {α β : Type} (n : Nat) (f : α → β) (a : α) : (Arr.replicate n a).map f = Arr.replicate n (f a) :=
  Arr.ext_get (by simp)

/-- A device reset right after power-on reset changes nothing (R183, R184), so what a device reset brings about holds after
power-on reset too. -/
theorem deviceReset_reset : deviceReset State.reset = State.reset := by
  simp only [deviceReset, State.reset, clearedPorts, clearedTriggers, resetTriggers, map_replicate]
  rfl

/-- At reset every slot is FREE and no fill is in progress (R116, R118). -/
theorem slotsOk_resetCapture : resetCapture.SlotsOk :=
  Capture.slots_of_free resetCapture _ (map_replicate 3 _ _).symm (by simp [resetCapture])

/-- The empty fault record is in order (R190). -/
theorem emptyFault_ok : emptyFault.Ok where
  filled h := by simp [emptyFault] at h
  cleared _ := rfl
  further := Nat.zero_le _

/-- At reset the run mark is clear, no edge waits and no hold-off runs (R99, R112). -/
theorem triggersOk_reset : State.reset.TriggersOk where
  running := by simp [State.reset, resetTriggers, resetDevice]
  combined h := by simp [State.reset, resetTriggers] at h
  waiting h := by simp [State.reset, resetTriggers] at h
  frozen _ := ⟨rfl, by simp [State.reset, resetTriggers, resetLine]⟩

/-- Every count of a port is 0 at reset (R149). -/
theorem countsOk_resetPort (line : Bool) (attempt : Nat) : (resetPort line attempt).CountsOk := by
  constructor <;> exact Nat.zero_le _

/-- Settles O3: the bounds that a device reset or the entry to STOPPED brings about hold as after those, the others by the
values at reset. -/
theorem resetKeepsInvariants : Obligations.ResetKeepsInvariants := by
  have hstanding : State.reset.standing.Ok := deviceReset_reset ▸ standingOk_deviceReset State.reset
  obtain ⟨hrendering, hcodes⟩ : State.reset.SendingOk := deviceReset_reset ▸ sendingOk_deviceReset State.reset
  obtain ⟨hbays, hbanks⟩ := (standingOk_iff _).mp hstanding
  have registers : State.reset.RegistersOk := by
    simp [State.RegistersOk, State.reset, resetLink]
  have clock : State.reset.ClockOk := by
    simp [State.ClockOk, State.reset, resetTiming, resetDevice]
  refine ⟨registers, rfl, hbays, hbanks, slotsOk_resetCapture, Nat.zero_le _, Timing.spaced_stop resetTiming, clock,
    triggersOk_reset, hrendering, hcodes, emptyFault_ok, rfl, Nat.zero_le _, fun p => ?_, fun c => ?_⟩
  · exact (Arr.get_replicate (resetPort false 0) p).symm ▸ countsOk_resetPort false 0
  · have hwindow : (State.reset.channels.get c).window = [] := by simp [State.reset, resetChannel]
    simp [Channel.WindowOk, hwindow]

end Sys2Proof.Machine

namespace Sys2Proof.Machine

-- As above: one proof is checked after another.
set_option Elab.async false

/-! ## LOAD_DONE (R69, R75, R89) -/

/-- What the result of a load makes of its bay's shadow (R89). -/
def loadedBay : WalkResult → Bay → Bay
  | .passed, bay => { bay with state := .staged }
  | .rejected reason index, bay =>
    { bay with
      state := .rejected
      rejectReason := some reason
      rejectIndex := index
      goPending := false
      summary := none }

/-- The record fields that the result of a load writes beside the state (R75). -/
def loadedFields : WalkResult → List (Nat × Nat × Nat)
  | .passed => []
  | .rejected reason index => rejectFields reason index

/-- The result of a load is a change of its bay alone (R89). -/
theorem applyLoad_eq (w : Walk) (r : WalkResult) (s : State) :
    applyLoad w r s = changeBay w.bay (loadedBay r) (loadedFields r) s := by
  cases r <;> rfl

/-- LOAD_DONE where the Loader has reached its result (R69). -/
theorem execLoadDone_of_result {s : State} {w : Walk} {r : WalkResult} (hw : s.reader.loader = some w)
    (hr : w.result = some r) :
    execLoadDone s = .next (changeBay w.bay (loadedBay r) (loadedFields r) (setLoader none s)) := by
  simp [execLoadDone, finished, hw, hr, applyLoad_eq]

/-- What a change of a bay hands over does not depend on the walks (R75). -/
theorem status_changeBay_setLoader (b : Fin 8) (f : Bay → Bay) (l : List (Nat × Nat × Nat)) (w : Option Walk) (s : State) :
    (changeBay b f l (setLoader w s)).status =
      s.statusWith (s.recordWrites b ((0x00, 1, (f (s.bays.bays.get b)).state.code) :: l)) := by
  rw [status_changeBay]
  simp [State.statusWith, State.recordWrites]

/-- The notice that a change of a bay raises does not depend on the walks (R75). -/
theorem link_changeBay_setLoader (b : Fin 8) (f : Bay → Bay) (l : List (Nat × Nat × Nat)) (w : Option Walk) (s : State) :
    (changeBay b f l (setLoader w s)).link = (raiseIf s.working .bay s).link := by
  have hworking : (setLoader w s).working = s.working := by simp [State.working]
  rw [link_changeBay, hworking]
  simp only [raiseIf, raiseNotice]
  split <;> simp

/-- Settles O30: the Loader becomes idle and its bay changes, by the result. -/
theorem loadDone : Obligations.LoadDone := by
  intro s w r hw hr
  refine ⟨_, execLoadDone_of_result hw hr, ?frame, by simp, by simp, fun a ha => ?others, by simp, ?passed, ?rejected,
    link_changeBay_setLoader .., ?status⟩
  case frame => simp [Part.same]
  case others => simp [Arr.get_modify_ne _ _ _ _ ha]
  case passed =>
    rintro rfl
    simp [loadedBay]
  case rejected =>
    rintro reason index rfl
    simp [loadedBay]
  case status =>
    rw [status_changeBay_setLoader]
    cases r <;> rfl

/-! ## The tests of an edition as a whole and of an extent (R46, R54, R67) -/

/-- With no test there is no failure. -/
@[simp] theorem firstFailure_nil : firstFailure [] = none := rfl

/-- The first test decides, or the rest do. -/
@[simp] theorem firstFailure_cons (fails : Bool) (r : RejectReason) (rest : List (Bool × RejectReason)) :
    firstFailure ((fails, r) :: rest) = if fails then some r else firstFailure rest := by
  cases fails <;> rfl

/-- The tests of an edition as a whole, in their order: size, alignment, place (R46). -/
theorem editionFailure_eq (l : Layout) (address length : Nat) :
    editionFailure l address length =
      if ¬ (32 ≤ length ∧ length ≤ 4096 ∧ length % 16 = 0) then some .length
      else if address % 16 ≠ 0 then some .align
      else if ¬ (l.arenaLow ≤ address ∧ address + length ≤ l.arenaHigh) then some .bounds
      else none := by
  simp only [editionFailure, firstFailure_cons, firstFailure_nil, decide_eq_true_eq]

/-- The tests of an extent, in their order: alignment, place (R54, R59). -/
theorem extentFailure_eq (l : Layout) (last count element : Nat) :
    extentFailure l last count element =
      if extentFirst last count element % 8 ≠ 0 then some .align
      else if ¬ ((l.arenaLow : Int) ≤ extentFirst last count element ∧ last + element ≤ l.arenaHigh) then some .bounds
      else none := by
  simp only [extentFailure, extentAligned, extentInside, firstFailure_cons, firstFailure_nil, Bool.not_eq_true',
    decide_eq_false_iff_not, ne_eq]

/-- How a walk reports a failure: a load reports every one but MEMORY as CHANGED (R67). -/
theorem Walk.reason_eq (w : Walk) (r : RejectReason) :
    w.reason r = if w.plan.isSome = true ∧ r ≠ .memory then .changed else r := by
  cases hp : w.plan <;> cases r <;> simp [Walk.reason, hp]

section
variable {l : Layout} {address length : Nat} (b : Fin 8) (plan : Option LoadPlan)

/-- A walk over an edition that fails as a whole ends at index 0 before any read (R46, R67). -/
theorem startWalk_of_failure {r : RejectReason} (h : editionFailure l address length = some r) :
    (startWalk l b address length plan).read = none ∧
      (startWalk l b address length plan).result =
        some (.rejected (if plan.isSome = true ∧ r ≠ .memory then .changed else r) 0) ∧
      (startWalk l b address length plan).plan = plan := by
  simp [startWalk, h, Walk.fail, Walk.reason_eq]

/-- A walk over an edition that passes as a whole stands at item 0, whose header it reads (R46, R58). -/
theorem startWalk_of_sound (h : editionFailure l address length = none) :
    startWalk l b address length plan =
      { bay := b, address := address, length := length, index := 0, offset := 0, units := 0, item := [], scope := none,
        marks := noMarks, poolSum := 0, summary := emptySummary, phase := .header, read := some ⟨address, 4, []⟩,
        result := none, plan := plan } := by
  simp [startWalk, h, Walk.readHeader]

end

/-- Settles O44: the walk by the first failing test of the edition, and the tests of an extent. -/
theorem editionTests : Obligations.EditionTests := by
  intro l b address length last count element w sized placed first inside
  have sound : sized → address % 16 = 0 → placed → editionFailure l address length = none :=
    fun hs ha hp => by rw [editionFailure_eq, if_neg (not_not.mpr hs), if_neg (not_not.mpr ha), if_neg (not_not.mpr hp)]
  have rejected : ∀ {r}, editionFailure l address length = some r → w.read = none ∧ w.result = some (.rejected r 0) :=
    fun hr => by
      obtain ⟨hread, hresult, -⟩ := startWalk_of_failure b none hr
      exact ⟨hread, by simpa using hresult⟩
  have unsized : ¬ sized → editionFailure l address length = some .length :=
    fun hs => by rw [editionFailure_eq, if_pos hs]
  have misaligned : sized → address % 16 ≠ 0 → editionFailure l address length = some .align :=
    fun hs ha => by rw [editionFailure_eq, if_neg (not_not.mpr hs), if_pos ha]
  have misplaced : sized → address % 16 = 0 → ¬ placed → editionFailure l address length = some .bounds :=
    fun hs ha hp => by rw [editionFailure_eq, if_neg (not_not.mpr hs), if_neg (not_not.mpr ha), if_pos hp]
  have hfirst : extentFirst last count element = first := rfl
  refine ⟨fun hs => rejected (unsized hs), fun hs ha => rejected (misaligned hs ha),
    fun hs ha hp => rejected (misplaced hs ha hp), fun hs ha hp => ?passed, fun plan => ⟨?load, ?loadFails⟩, ?_, ?_, ?_⟩
  case passed => simp [w, startWalk_of_sound b none (sound hs ha hp)]
  case load =>
    rintro ⟨hs, ha, hp⟩
    simp only [w, startWalk_of_sound b _ (sound hs ha hp)]
  case loadFails =>
    intro hf
    have changed : ∀ r, r ≠ .memory → editionFailure l address length = some r →
        (startWalk l b address length (some plan)).read = none ∧
          (startWalk l b address length (some plan)).result = some (.rejected .changed 0) ∧
          (startWalk l b address length (some plan)).plan = some plan :=
      fun r hr he => by simpa [hr] using startWalk_of_failure b (some plan) he
    by_cases hs : sized
    · by_cases ha : address % 16 = 0
      · exact changed _ (by decide) (misplaced hs ha fun hp => hf ⟨hs, ha, hp⟩)
      · exact changed _ (by decide) (misaligned hs ha)
    · exact changed _ (by decide) (unsized hs)
  · intro ha
    rw [extentFailure_eq, hfirst, if_pos ha]
  · intro ha hi
    rw [extentFailure_eq, hfirst, if_neg (not_not.mpr ha), if_pos hi]
  · intro ha hi
    rw [extentFailure_eq, hfirst, if_neg (not_not.mpr ha), if_neg (not_not.mpr hi)]

/-! ## The tests of an item (R47 to R57) -/

/-- The outcome of tests of which one may fail. -/
def outcomeOf (failure : Option RejectReason) (a : ItemAction) : RejectReason ⊕ ItemAction :=
  match failure with
  | some r => .inl r
  | none => .inr a

/-- An item of a kind whose structure passes: its length is not 0 and within the declared length, its kind is known, and
it is as long as the kind asks (R47). -/
structure SoundItem (w : Walk) (item : List Byte) (k : ItemKind) : Prop where
  within : ¬ (field item 2 2 = 0 ∨ w.length < w.offset + 16 * field item 2 2)
  kind : itemKindOf (field item 0 1) = some k
  least : k.leastUnits ≤ field item 2 2

section
variable (l : Layout) {w : Walk} {item : List Byte} {k : ItemKind}

/-- A length of 0 or past the declared length (R47). -/
theorem judgeWhole_of_past (h : field item 2 2 = 0 ∨ w.length < w.offset + 16 * field item 2 2) :
    judgeWhole l w item = .inl .length := by
  simp [judgeWhole, structureOf, h]

/-- An unknown kind (R47). -/
theorem judgeWhole_of_unknown (h : ¬ (field item 2 2 = 0 ∨ w.length < w.offset + 16 * field item 2 2))
    (hk : itemKindOf (field item 0 1) = none) : judgeWhole l w item = .inl .kind := by
  simp [judgeWhole, structureOf, h, hk]

/-- A length below the kind's least (R47). -/
theorem judgeWhole_of_short (h : ¬ (field item 2 2 = 0 ∨ w.length < w.offset + 16 * field item 2 2))
    (hk : itemKindOf (field item 0 1) = some k) (hu : field item 2 2 < k.leastUnits) :
    judgeWhole l w item = .inl .length := by
  simp [judgeWhole, structureOf, h, hk, hu]

/-- With its structure sound an item is judged by its kind (R59). -/
theorem judgeWhole_of_sound (h : SoundItem w item k) : judgeWhole l w item = judgeItem l w k item := by
  simp [judgeWhole, structureOf, h.within, h.kind, Nat.not_lt.mpr h.least]

/-- HEAD stands at index 0 and nowhere else (R48). -/
theorem judgeItem_of_misplaced (h : w.index = 0 ↔ k ≠ .head) : judgeItem l w k item = .inl .header := by
  simp [judgeItem, h]

/-- HEAD in its place is tested for the raster (R49). -/
theorem judgeItem_head (h : w.index = 0) :
    judgeItem l w .head item =
      if field item 8 2 = l.wr ∧ field item 10 2 = l.hr then .inr (.headTag (BitVec.ofNat 32 (field item 4 4)))
      else .inl .raster := by
  simp only [judgeItem, h, bne_self_eq_false, Bool.false_eq_true, if_false, decide_true]
  by_cases hr : field item 8 2 = l.wr ∧ field item 10 2 = l.hr
  · rw [if_pos hr, if_neg (by simp [hr])]
  · rw [if_neg hr, if_pos (by tauto)]

section
variable (h : w.index ≠ 0)
include h

/-- SELECT must name a channel (R50). -/
theorem judgeItem_select :
    judgeItem l w .select item =
      if field item 4 1 % 64 = 0 then .inl .select else .inr (.openScope (l.scopeOf (field item 4 1 % 64))) := by
  simp [judgeItem, h]

/-- The channel items share their tests (R50, R59). -/
theorem judgeItem_channel (hk : k ∈ [ItemKind.mesh, .matrix, .ramp, .uplift, .encode]) :
    judgeItem l w k item = judgeChannelItem l w k item := by
  simp only [List.mem_cons, List.not_mem_nil, or_false] at hk
  rcases hk with rfl | rfl | rfl | rfl | rfl <;> simp [judgeItem, h]

/-- DECODE is tested in no scope (R53). -/
theorem judgeItem_decode : judgeItem l w .decode item = judgeDecode l w item := by
  simp [judgeItem, h]

/-- PAD asks nothing (R47). -/
theorem judgeItem_pad : judgeItem l w .pad item = .inr .nothing := by
  simp [judgeItem, h]

/-- END ends the walk (R60). -/
theorem judgeItem_endItem : judgeItem l w .endItem item = .inr .finish := by
  simp [judgeItem, h]

end

/-- The test of the extent of a channel item, if it has one (R54). -/
def itemExtent (l : Layout) (item : List Byte) : ItemKind → Option RejectReason
  | .mesh => extentFailure l (parseMesh item).last (parseMesh item).count (parseMesh item).elementBytes
  | .encode => extentFailure l (parseTable item).2 (parseTable item).1 2
  | _ => none

/-- The field tests of a channel item (R55, R56). -/
def itemLegality (l : Layout) (item : List Byte) : ItemKind → Option RejectReason
  | .mesh => meshLegality l (parseMesh item)
  | .encode => if (parseTable item).1 ≠ 1025 then some .tableSize else none
  | _ => none

/-- What a channel item asks that passes its tests in a taken scope (R59). -/
def itemAction (scope : BitVec 6) (item : List Byte) : ItemKind → ItemAction
  | .mesh => .takeMesh scope (parseMesh item)
  | .encode => .takeEncode scope (parseTable item).1 (parseTable item).2
  | k => .takeValues scope k

/-- A channel item before any SELECT (R50). -/
theorem judgeChannelItem_of_noScope (h : w.scope = none) : judgeChannelItem l w k item = .inl .select := by
  simp [judgeChannelItem, h]

/-- In an untaken scope the extent alone is tested (R51). -/
theorem judgeChannelItem_of_untaken (h : w.scope = some 0) :
    judgeChannelItem l w k item = outcomeOf (itemExtent l item k) .nothing := by
  simp only [judgeChannelItem, h, if_true]
  cases k <;> rfl

/-- In a taken scope a held mark gives DUPLICATE, before the field tests and the extent (R52, R55, R56, R59). -/
theorem judgeChannelItem_of_taken {scope : BitVec 6} (h : w.scope = some scope) (hs : scope ≠ 0) :
    judgeChannelItem l w k item =
      if w.marks.of k &&& scope ≠ 0 then .inl .duplicate
      else outcomeOf (orElse (itemLegality l item k) (itemExtent l item k)) (itemAction scope item k) := by
  simp only [judgeChannelItem, h, if_neg hs, firstFailure_cons, firstFailure_nil, decide_eq_true_eq]
  by_cases hd : w.marks.of k &&& scope ≠ 0
  · rw [if_pos hd, if_pos hd]
    rfl
  · rw [if_neg hd, if_neg hd]
    cases k <;> rfl

/-- A DECODE item: its mark, the size of its table, its extent (R52, R53, R56). -/
theorem judgeDecode_eq :
    judgeDecode l w item =
      if w.marks.decode = true then .inl .duplicate
      else if (parseTable item).1 ≠ 1024 then .inl .tableSize
      else outcomeOf (extentFailure l (parseTable item).2 (parseTable item).1 2)
        (.takeDecode (parseTable item).1 (parseTable item).2) := by
  simp only [judgeDecode, firstFailure_cons, firstFailure_nil, decide_eq_true_eq]
  by_cases hm : w.marks.decode = true
  · rw [if_pos hm, if_pos hm]
    rfl
  · rw [if_neg hm, if_neg hm]
    by_cases hn : (parseTable item).1 ≠ 1024
    · rw [if_pos hn, if_pos hn]
      rfl
    · rw [if_neg hn, if_neg hn]
      rfl

end

/-- Two sets of channels share none just where each channel of the one is missing in the other. -/
theorem and_eq_zero_iff_disjoint {n : Nat} (a b : BitVec n) :
    a &&& b = 0 ↔ ∀ c < n, b.getLsbD c = true → a.getLsbD c = false := by
  constructor
  · intro h c _ hb
    have hc : (a &&& b).getLsbD c = false := by rw [h]; exact BitVec.getLsbD_zero
    simpa [hb] using hc
  · intro h
    refine BitVec.eq_of_getLsbD_eq fun c hc => ?_
    cases hb : b.getLsbD c
    · simp [hb]
    · simp [h c hc hb]

/-- The channels of a scope are those of the mask that are enabled (R50). -/
theorem getLsbD_scopeOf (l : Layout) (mask : Nat) (c : Fin 6) :
    (l.scopeOf mask).getLsbD c.val = (mask.testBit c.val && l.isEnabled c) := by
  simp only [Layout.scopeOf, Layout.isEnabled, BitVec.getLsbD_and, BitVec.getLsbD_ofNat, c.isLt, decide_true, Bool.true_and]

/-- The channels of a set. -/
theorem mem_members (set : BitVec 6) (c : Fin 6) : c ∈ members set ↔ set.getLsbD c.val = true := by
  simp [members]

/-! ## What only a load does (R66, R67) -/

section
variable {w : Walk}

/-- A check writes nothing (R61). -/
theorem Walk.writes_of_check (h : w.plan = none) (x : List BankWrite) : w.writes x = [] := by
  simp [Walk.writes, h]

/-- A load makes the writes asked of it (R66). -/
theorem Walk.writes_of_load {p : LoadPlan} (h : w.plan = some p) (x : List BankWrite) : w.writes x = x := by
  simp [Walk.writes, h]

/-- A check compares nothing (R67). -/
theorem Walk.differs_of_check (h : w.plan = none) (test : CheckSummary → Bool) : w.differs test = false := by
  simp [Walk.differs, h]

/-- A load compares with the summary of its check (R67). -/
theorem Walk.differs_of_load {p : LoadPlan} (h : w.plan = some p) (test : CheckSummary → Bool) :
    w.differs test = test p.recorded := by
  simp [Walk.differs, h]

end

/-! ## The contents of a mesh (R31, R32, R57) -/

/-- A point lies in range just where neither coordinate lies outside (R31). -/
theorem MeshPoint.inRange_iff (p : MeshPoint) :
    p.inRange = true ↔ ¬ (p.u < -524288 ∨ 524287 < p.u ∨ p.v < -524288 ∨ 524287 < p.v) := by
  simp only [MeshPoint.inRange, decide_eq_true_eq]
  omega

/-- The corners of a cell of a mesh (R30). -/
def cellCorners (points : List MeshPoint) (columns i j : Nat) : List MeshPoint :=
  [(i, j), (i + 1, j), (i, j + 1), (i + 1, j + 1)].map (fun q => points.getD (q.2 * columns + q.1) blankPoint)

/-- The span of four corners is above a bound just where two of them lie further apart (R32). -/
theorem lt_cornerSpan_iff (n : Int) (a b c d : MeshPoint) :
    n < cornerSpan a b c d ↔ ∃ x ∈ [a, b, c, d], ∃ y ∈ [a, b, c, d], n < x.v - y.v := by
  simp only [cornerSpan, List.mem_cons, List.not_mem_nil, or_false, exists_eq_or_imp, exists_eq_left]
  omega

/-- A cell spans too much just where it is active and two of its corners lie too far apart (R32). -/
theorem cellTooTall_iff (points : List MeshPoint) (columns i j : Nat) :
    cellTooTall points columns i j = true ↔
      (∀ a ∈ cellCorners points columns i j, a.void = false) ∧
        ∃ a ∈ cellCorners points columns i j, ∃ b ∈ cellCorners points columns i j, 8192 < a.v - b.v := by
  simp only [cellTooTall, Bool.and_eq_true, decide_eq_true_eq, Config.spanLimit, lt_cornerSpan_iff]
  exact and_congr_left fun _ => by simp [cellCorners, and_assoc]

section
variable (points : List MeshPoint) (columns rows : Nat)

/-- A mesh spans too much just where one of its active cells does (R32). -/
theorem meshTooTall_iff :
    meshTooTall points columns rows = true ↔
      ∃ i j, i + 1 < columns ∧ j + 1 < rows ∧ (∀ a ∈ cellCorners points columns i j, a.void = false) ∧
        ∃ a ∈ cellCorners points columns i j, ∃ b ∈ cellCorners points columns i j, 8192 < a.v - b.v := by
  simp only [← cellTooTall_iff, meshTooTall, List.any_eq_true, List.mem_range]
  constructor
  · rintro ⟨j, hj, i, hi, h⟩
    exact ⟨i, j, by omega, by omega, h⟩
  · rintro ⟨i, j, hi, hj, h⟩
    exact ⟨j, by omega, i, by omega, h⟩

variable {points}

/-- A point out of range gives RANGE (R57). -/
theorem meshContents_of_outside (h : ∃ p ∈ points, ¬ p.inRange = true) :
    meshContents points columns rows = some .range := by
  have hall : (!points.all MeshPoint.inRange) = true := by simpa using h
  rw [meshContents, firstFailure_cons, if_pos hall]

variable {columns rows} (h : ∀ p ∈ points, p.inRange = true)
include h

/-- With every point in range a mesh that spans too much gives SPAN (R57). -/
theorem meshContents_of_tall (ht : meshTooTall points columns rows = true) :
    meshContents points columns rows = some .span := by
  simp [meshContents, List.all_eq_true.mpr h, ht]

/-- Contents that pass (R57). -/
theorem meshContents_of_sound (ht : ¬ meshTooTall points columns rows = true) :
    meshContents points columns rows = none := by
  simp [meshContents, List.all_eq_true.mpr h, ht]

end

/-! ## END (R60, R67) -/

/-- A MESH item differs from the summary just where it does for a channel of the scope (R67). -/
theorem meshChanged_iff (recorded : CheckSummary) (scope : BitVec 6) (m : MeshItem) :
    meshChanged recorded scope m = true ↔
      ∃ c : Fin 6, scope.getLsbD c.val = true ∧ recorded.meshes.get c ≠ some m.geometry := by
  simp [meshChanged, mem_members]

/-- What a load compares at END: the index, the decode mark, and that each recorded mesh is taken (R67). -/
theorem endChanged_iff (r : CheckSummary) (w : Walk) :
    endChanged r w = true ↔ w.index ≠ r.endIndex ∨ w.marks.decode ≠ r.decodeTaken ∨
      ∃ c : Fin 6, (r.meshes.get c).isSome = true ∧ w.marks.mesh.getLsbD c.val = false := by
  simp only [endChanged, Bool.or_eq_true, decide_eq_true_eq, List.any_eq_true, mem_allOf, true_and, Bool.and_eq_true,
    Bool.not_eq_true']
  rw [or_assoc, or_comm (b := _ ≠ _)]

section
variable {l : Layout} {w : Walk}

/-- Some enabled channel takes no mesh (R60). -/
def Walk.LacksMesh (l : Layout) (w : Walk) : Prop :=
  ∃ c : Fin 6, l.isEnabled c = true ∧ w.marks.mesh.getLsbD c.val = false

/-- The walk at END that passes (R60, R64). -/
def Walk.passedEnd (w : Walk) : Walk :=
  { w with summary := { w.summary with endIndex := w.index }, read := none, result := some .passed }

/-- The completion checks at END in their order, with what only a load compares there (R60, R67). -/
theorem Walk.finish_eq [Decidable (w.LacksMesh l)] :
    w.finish l =
      if w.LacksMesh l then (w.recordEnd.fail .missingMesh w.index, [])
      else if 65536 < w.poolSum then (w.recordEnd.fail .pool w.index, [])
      else if w.differs (fun r => endChanged r w) = true then (w.recordEnd.fail .changed w.index, [])
      else (w.passedEnd, w.writes [.finish w.marks]) := by
  have hlacks : (allOf 6).any (fun c => l.isEnabled c && !w.marks.mesh.getLsbD c.val) = true ↔ w.LacksMesh l := by
    simp [Walk.LacksMesh]
  simp only [← hlacks]
  rfl

/-- A channel without a mesh refuses the edition (R60). -/
theorem Walk.finish_of_lacksMesh (h : w.LacksMesh l) : w.finish l = (w.recordEnd.fail .missingMesh w.index, []) := by
  classical
  rw [Walk.finish_eq, if_pos h]

section
variable (h : ¬ w.LacksMesh l)
include h

/-- A pool sum above the pool refuses the edition (R60). -/
theorem Walk.finish_of_overfull (hp : 65536 < w.poolSum) : w.finish l = (w.recordEnd.fail .pool w.index, []) := by
  classical
  rw [Walk.finish_eq, if_neg h, if_pos hp]

variable (hp : w.poolSum ≤ 65536)
include hp

/-- What differs from the summary refuses a load (R67). -/
theorem Walk.finish_of_changed (hd : w.differs (fun r => endChanged r w) = true) :
    w.finish l = (w.recordEnd.fail .changed w.index, []) := by
  classical
  rw [Walk.finish_eq, if_neg h, if_neg (by omega), if_pos hd]

/-- An edition that passes at END (R60, R66). -/
theorem Walk.finish_of_sound (hd : w.differs (fun r => endChanged r w) = false) :
    w.finish l = (w.passedEnd, w.writes [.finish w.marks]) := by
  classical
  rw [Walk.finish_eq, if_neg h, if_neg (by omega), if_neg (by simp [hd])]

end

/-- A walk refused at END: the reason as reported, the index of END, nothing read and nothing written (R60, R67). -/
theorem Walk.refused_of_finish {r : RejectReason} (h : w.finish l = (w.recordEnd.fail r w.index, [])) :
    (w.finish l).1.result = some (.rejected (w.reason r) w.index) ∧ (w.finish l).1.read = none ∧ (w.finish l).2 = [] := by
  rw [h]
  exact ⟨rfl, rfl, rfl⟩

end

/-- Settles O45: structure, position, then each kind's tests, the contents of a mesh, and END. -/
theorem itemTests : Obligations.ItemTests := by
  intro l w item scope code units past least sound judged mesh table meshExtent tableExtent outcome channelKinds
  have hleast : ∀ k, least k = k.leastUnits := fun k => by cases k <;> rfl
  have houtcome : ∀ f a, outcomeOf f a = outcome f a := fun f a => by cases f <;> rfl
  have kindly : ∀ {k}, sound k → judged = judgeItem l w k item :=
    fun {k} ⟨hpast, hkind, hunits⟩ => judgeWhole_of_sound l ⟨hpast, hkind, hleast k ▸ hunits⟩
  have channelly : ∀ {k}, w.index ≠ 0 → k ∈ channelKinds → sound k → judged = judgeChannelItem l w k item :=
    fun hi hk hs => (kindly hs).trans (judgeItem_channel l hi hk)
  refine ⟨⟨rfl, ?codes⟩, judgeWhole_of_past l, judgeWhole_of_unknown l,
    fun k hp hk hu => judgeWhole_of_short l hp hk (hleast k ▸ hu),
    fun k hs hi => (kindly hs).trans (judgeItem_of_misplaced l hi), fun hs hi => (kindly hs).trans (judgeItem_head l hi),
    getLsbD_scopeOf l, fun hi => ⟨fun hs => (kindly hs).trans (judgeItem_select l hi), ?noScope, ?untaken, ?taken, ?inNoScope,
      fun hs => (kindly hs).trans (judgeItem_pad l hi), fun hs => (kindly hs).trans (judgeItem_endItem l hi)⟩,
    fun _ => rfl, ?contents, w.reason_eq, fun recorded => meshChanged_iff recorded scope, ?atEnd⟩
  case codes =>
    intro n hn
    simp only [List.mem_cons, List.not_mem_nil, or_false, not_or] at hn
    simp [itemKindOf, hn]
  case noScope => exact fun k hk hs h => (channelly hi hk hs).trans (judgeChannelItem_of_noScope l h)
  case untaken =>
    intro h
    have untaken : ∀ {k}, k ∈ channelKinds → sound k → judged = outcomeOf (itemExtent l item k) .nothing :=
      fun hk hs => (channelly hi hk hs).trans (judgeChannelItem_of_untaken l h)
    refine ⟨fun k hk hs => ?_, fun hs => ?_, fun hs => ?_⟩
    · simp only [List.mem_cons, List.not_mem_nil, or_false] at hk
      rcases hk with rfl | rfl | rfl <;> exact untaken (by simp [channelKinds]) hs
    · exact (untaken (by simp [channelKinds]) hs).trans (houtcome _ _)
    · exact (untaken (by simp [channelKinds]) hs).trans (houtcome _ _)
  case taken =>
    intro h hscope fresh
    have hfresh : ∀ k, fresh k ↔ w.marks.of k &&& scope = 0 := fun k => (and_eq_zero_iff_disjoint _ _).symm
    have taken : ∀ {k}, k ∈ channelKinds → sound k → fresh k → judged =
        outcomeOf (orElse (itemLegality l item k) (itemExtent l item k)) (itemAction scope item k) := by
      intro k hk hs hf
      rw [channelly hi hk hs, judgeChannelItem_of_taken l h hscope, if_neg (not_not.mpr ((hfresh k).mp hf))]
    refine ⟨fun k hk hs hf => ?_, fun k hk hs hf => ?_, fun hs hf => ?_, fun hs hf => ?_⟩
    · rw [channelly hi hk hs, judgeChannelItem_of_taken l h hscope, if_pos (mt (hfresh k).mpr hf)]
    · simp only [List.mem_cons, List.not_mem_nil, or_false] at hk
      rcases hk with rfl | rfl | rfl <;> exact taken (by simp [channelKinds]) hs hf
    · rw [taken (by simp [channelKinds]) hs hf, itemLegality]
      cases meshLegality l mesh
      · exact houtcome _ _
      · rfl
    · rw [taken (by simp [channelKinds]) hs hf, itemLegality]
      split
      · rfl
      · exact houtcome _ _
  case inNoScope =>
    intro hs
    rw [kindly hs, judgeItem_decode l hi, judgeDecode_eq, houtcome]
  case contents =>
    intro points columns rows outside corners tall
    have inRange : (∀ p ∈ points, ¬ outside p) → ∀ p ∈ points, p.inRange = true :=
      fun h p hp => p.inRange_iff.mpr (h p hp)
    have htall : meshTooTall points columns rows = true ↔ tall := meshTooTall_iff points columns rows
    exact ⟨fun ⟨p, hp, ho⟩ => meshContents_of_outside columns rows ⟨p, hp, mt p.inRange_iff.mp (not_not.mpr ho)⟩,
      fun h ht => meshContents_of_tall (inRange h) (htall.mpr ht),
      fun h ht => meshContents_of_sound (inRange h) (mt htall.mp ht)⟩
  case atEnd =>
    intro missing differs refused passed
    have hdiffers : ∀ {p}, w.plan = some p → (w.differs (fun r => endChanged r w) = true ↔ differs p.recorded) :=
      fun {p} hw => by rw [Walk.differs_of_load hw, endChanged_iff]
    refine ⟨fun hm => Walk.refused_of_finish (Walk.finish_of_lacksMesh hm),
      fun hm hp => Walk.refused_of_finish (Walk.finish_of_overfull hm hp), fun hm hp hw => ?_,
      fun p hm hp hw => ⟨fun hd => Walk.refused_of_finish (Walk.finish_of_changed hm hp ((hdiffers hw).mpr hd)),
        fun hd => ?_⟩⟩
    · have hend := Walk.finish_of_sound hm hp (Walk.differs_of_check hw _)
      rwa [Walk.writes_of_check hw] at hend
    · have hend := Walk.finish_of_sound hm hp (Bool.eq_false_iff.mpr (mt (hdiffers hw).mp hd))
      rwa [Walk.writes_of_load hw] at hend

/-! ## What an item does to the walk (R49 to R67) -/

/-- A failure by CHANGED is reported so by the Checker and the Loader alike (R67). -/
theorem Walk.reason_changed (w : Walk) : w.reason .changed = .changed := by
  simp [Walk.reason_eq]

section
variable {w : Walk}

/-- With no item left the walk ends with LENGTH (R49). -/
theorem Walk.advance_of_end (h : w.length ≤ w.offset + 16 * w.units) :
    w.advance = w.fail .length (min (w.index + 1) 255) := by
  simp only [Walk.advance, if_pos h]

/-- The walk goes on to the header of the next item (R47, R49). -/
theorem Walk.advance_of_more (h : w.offset + 16 * w.units < w.length) :
    w.advance =
      { w with
        index := w.index + 1
        offset := w.offset + 16 * w.units
        phase := .header
        read := some ⟨w.address + (w.offset + 16 * w.units), 4, []⟩ } := by
  simp only [Walk.advance, if_neg (Nat.not_le.mpr h)]
  rfl

/-- A kind's mark set for a scope leaves every other mark (R52). -/
theorem TakenMarks.getLsbD_of_take (m : TakenMarks) (scope : BitVec 6) (c : Nat) {k j : ItemKind}
    (hk : k ∈ [ItemKind.mesh, .matrix, .ramp, .uplift, .encode]) (hj : j ∈ [ItemKind.mesh, .matrix, .ramp, .uplift, .encode]) :
    ((m.take scope k).of j).getLsbD c = ((m.of j).getLsbD c || decide (j = k) && scope.getLsbD c) := by
  simp only [List.mem_cons, List.not_mem_nil, or_false] at hk
  rcases hk with rfl | rfl | rfl | rfl | rfl <;> cases j <;> simp [TakenMarks.take, TakenMarks.of] at hj ⊢

variable (l : Layout) (item bytes : List Byte)

/-! ### The reads of an item -/

/-- The kinds of an item behind whose header the layout names no byte: unknown ones, PAD and END (R47, R193). -/
theorem itemKindOf_of_bare {code : Nat} (h : code ∉ [1, 2, 3, 4, 5, 6, 7, 8]) :
    itemKindOf code = none ∨ itemKindOf code = some .pad ∨ itemKindOf code = some .endItem := by
  simp only [List.mem_cons, List.not_mem_nil, or_false, not_or] at h
  by_cases hpad : code = 14
  · exact .inr (.inl (by rw [hpad]; rfl))
  · by_cases hend : code = 15
    · exact .inr (.inr (by rw [hend]; rfl))
    · exact .inl (by simp [itemKindOf, h])

/-- Of such an item the header alone is read (R61). -/
theorem Walk.contentsBytes_of_bare {code : Nat} (h : code ∉ [1, 2, 3, 4, 5, 6, 7, 8]) : w.contentsBytes code = 0 := by
  rcases itemKindOf_of_bare h with hk | hk | hk <;> simp [Walk.contentsBytes, hk, ItemKind.namedBytes]

/-- The header of an item whose layout names more: its contents are read next (R59, R61). -/
theorem Walk.consume_of_more (h : w.phase = .header) (hn : 0 < w.contentsBytes (field bytes 0 1)) :
    w.consume l bytes =
      ({ w with
          phase := .contents
          item := bytes
          read := some ⟨w.address + w.offset + 4, w.contentsBytes (field bytes 0 1), []⟩ }, []) := by
  simp only [Walk.consume, h, Walk.onHeader, if_pos hn]

/-- An item that is read whole, in its header or with its contents, is tested and acted upon (R59, R61). -/
theorem Walk.consume_of_whole {whole : List Byte}
    (h : w.phase = .header ∧ w.contentsBytes (field bytes 0 1) = 0 ∧ whole = bytes ∨
      w.phase = .contents ∧ whole = w.item ++ bytes) : w.consume l bytes = w.onItem l whole := by
  rcases h with ⟨hp, hn, rfl⟩ | ⟨hp, rfl⟩
  · simp only [Walk.consume, hp, Walk.onHeader, hn, Nat.lt_irrefl, if_false]
  · simp only [Walk.consume, hp]

/-- An item that fails a test ends the walk at its index (R59). -/
theorem Walk.onItem_of_failure {r : RejectReason} (h : judgeWhole l w item = .inl r) :
    w.onItem l item = (w.fail r w.index, []) := by
  simp only [Walk.onItem, h]

/-- An item that passes its tests takes effect (R59). -/
theorem Walk.onItem_of_action {a : ItemAction} (h : judgeWhole l w item = .inr a) :
    w.onItem l item = ({ w with units := field item 2 2 } : Walk).act l item a := by
  simp only [Walk.onItem, h]

/-! ### HEAD and MESH, which a load compares (R67) -/

/-- HEAD records its tag where a load finds no difference (R49, R67). -/
theorem Walk.act_headTag_of_same {tag : Word} (h : w.differs (fun r => decide (tag ≠ r.tag)) = false) :
    w.act l item (.headTag tag) = (({ w with summary := { w.summary with tag := tag } } : Walk).advance, []) := by
  simp only [Walk.act, h, Bool.false_eq_true, if_false]

/-- A tag other than the recorded one ends a load (R67). -/
theorem Walk.act_headTag_of_changed {tag : Word} (h : w.differs (fun r => decide (tag ≠ r.tag)) = true) :
    w.act l item (.headTag tag) = (w.fail .changed w.index, []) := by
  simp only [Walk.act, h, if_true]

variable (scope : BitVec 6) (m : MeshItem)

/-- The points of a MESH are read where a load finds no difference (R61, R67). -/
theorem Walk.act_takeMesh_of_same (h : w.differs (fun r => meshChanged r scope m) = false) :
    w.act l item (.takeMesh scope m) = (w.readExtent (.points m) m.last m.count m.elementBytes, []) := by
  simp only [Walk.act, h, Bool.false_eq_true, if_false]

/-- A MESH that the summary does not record so ends a load (R67). -/
theorem Walk.act_takeMesh_of_changed (h : w.differs (fun r => meshChanged r scope m) = true) :
    w.act l item (.takeMesh scope m) = (w.fail .changed w.index, []) := by
  simp only [Walk.act, h, if_true]

/-! ### The points of a mesh (R55, R57, R66) -/

/-- The walk that has taken a mesh for a scope: its marks, its share of the pool, its record (R52, R55, R58). -/
def Walk.takeMesh (w : Walk) (scope : BitVec 6) (m : MeshItem) : Walk :=
  { w with
    marks := w.marks.take scope .mesh
    poolSum := w.poolSum + m.columns * m.rows * (members scope).length
    summary := { w.summary with
      meshes := Arr.build (fun c => if scope.getLsbD c.val then some m.geometry else w.summary.meshes.get c) } }

variable {scope m} (hp : w.phase = .points m)
include hp

/-- Points that fail the contents step end the walk (R57). -/
theorem Walk.consume_points_of_failure {r : RejectReason}
    (h : meshContents (parsePoints m bytes) m.columns m.rows = some r) : w.consume l bytes = (w.fail r w.index, []) := by
  simp only [Walk.consume, hp, Walk.onPoints, h]

variable (hs : w.scope = some scope) (h : meshContents (parsePoints m bytes) m.columns m.rows = none)
include hs h

/-- Points that pass take the mesh, and a check writes none of them (R55, R61). -/
theorem Walk.consume_points_of_check (hw : w.plan = none) : w.consume l bytes = ((w.takeMesh scope m).advance, []) := by
  simp only [Walk.consume, hp, Walk.onPoints, h, hs, hw, Option.getD_some, Walk.takeMesh]

/-- A load writes the points at the base of each channel of the scope (R66). -/
theorem Walk.consume_points_of_load {p : LoadPlan} (hw : w.plan = some p) :
    w.consume l bytes =
      ((w.takeMesh scope m).advance,
        (members scope).map (fun c => .mesh c m.geometry (p.bases.get c) (parsePoints m bytes))) := by
  simp only [Walk.consume, hp, Walk.onPoints, h, hs, hw, Option.getD_some, Walk.takeMesh]

end

/-! ### ENCODE and DECODE (R41, R66) -/

section
variable {w : Walk} (l : Layout) (item bytes : List Byte) (scope : BitVec 6) (count last : Nat)

/-- A check takes a table at once (R52, R61). -/
theorem Walk.act_table_of_check (h : w.plan = none) :
    w.act l item (.takeEncode scope count last) = (({ w with marks := w.marks.take scope .encode } : Walk).advance, []) ∧
      w.act l item (.takeDecode count last) = (w.takeDecode.advance, []) := by
  simp [Walk.act, h]

/-- A load reads the entries of a table first (R66). -/
theorem Walk.act_table_of_load {p : LoadPlan} (h : w.plan = some p) :
    w.act l item (.takeEncode scope count last) = (w.readExtent .encodeTable last count 2, []) ∧
      w.act l item (.takeDecode count last) = (w.readExtent .decodeTable last count 2, []) := by
  simp [Walk.act, h]

/-- The entries of an ENCODE, clamped, are written for each channel of the scope (R38, R66). -/
theorem Walk.consume_encodeTable (hp : w.phase = .encodeTable) (hs : w.scope = some scope) :
    w.consume l bytes =
      (({ w with marks := w.marks.take scope .encode } : Walk).advance,
        w.writes ((members scope).map (fun c => .encode c ((parseEntries 1025 bytes).map (fun e => min e 1023))))) := by
  simp only [Walk.consume, hp, hs, Option.getD_some]

/-- The entries of a DECODE are written for the bank (R39, R66). -/
theorem Walk.consume_decodeTable (hp : w.phase = .decodeTable) :
    w.consume l bytes = (w.takeDecode.advance, w.writes [.decode (parseEntries 1024 bytes)]) := by
  simp only [Walk.consume, hp]

end

/-- Settles O46: the next item, the reads of an item, then each kind's effect in a check and in a load. -/
theorem itemsTaken : Obligations.ItemsTaken := by
  intro l w item bytes scope plan next named more marked each extent
  have hnamed : ∀ code, w.contentsBytes code = min (named code) (w.length - w.offset) - 4 := by
    intro code
    by_cases hbare : code ∈ [1, 2, 3, 4, 5, 6, 7, 8]
    · simp only [List.mem_cons, List.not_mem_nil, or_false] at hbare
      rcases hbare with rfl | rfl | rfl | rfl | rfl | rfl | rfl | rfl <;> rfl
    · have hzero : named code = 0 := by
        simp only [List.mem_cons, List.not_mem_nil, or_false, not_or] at hbare
        simp [named, hbare]
      rw [Walk.contentsBytes_of_bare hbare, hzero, Nat.zero_min]
  have hmore : w.contentsBytes (field bytes 0 1) = more := hnamed _
  have hchanged : w.fail .changed w.index = { w with read := none, result := some (.rejected .changed w.index) } := by
    rw [Walk.fail, Walk.reason_changed]
  refine ⟨fun h => ?atEnd, fun h => Walk.advance_of_more h, fun hp hn => ?contents, fun whole h => ⟨?fails, ?acts⟩,
    fun k hk c j hj => w.marks.getLsbD_of_take scope c.val hk hj, fun tag h => Walk.act_headTag_of_same l item ?sameTag,
    fun tag hw h => ?otherTag, rfl, rfl, rfl, fun k => ?values, rfl, rfl, rfl,
    fun m => ⟨fun hw h => ?otherMesh, fun h => Walk.act_takeMesh_of_same l item scope m ?sameMesh,
      fun hp hs => ⟨fun r hr => Walk.consume_points_of_failure l bytes hp hr,
        fun h => ⟨Walk.consume_points_of_check l bytes hp hs h, Walk.consume_points_of_load l bytes hp hs h⟩⟩⟩,
    fun count last hw => Walk.act_table_of_check l item scope count last hw,
    fun count last hw => Walk.act_table_of_load l item scope count last hw, fun hw hp hs => ?encode, fun hw hp => ?decode⟩
  case atEnd =>
    rw [Walk.advance_of_end h]
    exact ⟨rfl, rfl⟩
  case contents => rw [Walk.consume_of_more l bytes hp (hmore ▸ hn), hmore]
  case fails =>
    intro r hr
    rw [Walk.consume_of_whole l bytes (hmore ▸ h), Walk.onItem_of_failure l whole hr]
    rfl
  case acts =>
    intro a ha
    rw [Walk.consume_of_whole l bytes (hmore ▸ h), Walk.onItem_of_action l whole ha]
  case sameTag =>
    rcases h with hw | ⟨hw, rfl⟩
    · exact Walk.differs_of_check hw _
    · simp [Walk.differs_of_load hw]
  case otherTag =>
    rw [Walk.act_headTag_of_changed l item (by simp [Walk.differs_of_load hw, Ne.symm h]), hchanged]
  case values =>
    cases hw : w.plan <;> simp [Walk.act, Walk.writes, hw]
  case otherMesh =>
    rw [Walk.act_takeMesh_of_changed l item scope m (by rw [Walk.differs_of_load hw, h]), hchanged]
  case sameMesh =>
    rcases h with hw | ⟨hw, h⟩
    · exact Walk.differs_of_check hw _
    · rw [Walk.differs_of_load hw, h]
  case encode =>
    rw [Walk.consume_encodeTable l bytes scope hp hs, Walk.writes_of_load hw]
    rfl
  case decode =>
    rw [Walk.consume_decodeTable l bytes hp, Walk.writes_of_load hw]
    rfl

/-! ## The edition reader's burst (R59, R62, R66, R68, R70) -/

/-- MEMORY is reported as such by the Checker and the Loader alike (R67). -/
theorem Walk.reason_memory (w : Walk) : w.reason .memory = .memory := by
  simp [Walk.reason_eq]

/-! ### A check writes nothing (R61) -/

section
variable (l : Layout) {w : Walk} (h : w.plan = none)
include h

/-- A check writes nothing at END. -/
theorem Walk.writes_finish_of_check : (w.finish l).2 = [] := by
  simp only [Walk.finish, Walk.complete]
  split
  · rfl
  · split
    · rfl
    · split
      · rfl
      · exact Walk.writes_of_check h _

/-- An item that takes effect writes nothing in a check. -/
theorem Walk.writes_act_of_check (item : List Byte) (a : ItemAction) : (w.act l item a).2 = [] := by
  cases a with
  | headTag tag => rw [Walk.act_headTag_of_same l item (Walk.differs_of_check h _)]
  | openScope scope => rfl
  | takeMesh scope m => rw [Walk.act_takeMesh_of_same l item scope m (Walk.differs_of_check h _)]
  | takeValues scope k => exact Walk.writes_of_check h _
  | takeEncode scope count last => rw [(Walk.act_table_of_check l item scope count last h).1]
  | takeDecode count last => rw [(Walk.act_table_of_check l item 0 count last h).2]
  | nothing => rfl
  | finish => exact Walk.writes_finish_of_check l h

/-- An item that is read writes nothing in a check. -/
theorem Walk.writes_onItem_of_check (item : List Byte) : (w.onItem l item).2 = [] := by
  cases hj : judgeWhole l w item with
  | inl r => rw [Walk.onItem_of_failure l item hj]
  | inr a =>
    rw [Walk.onItem_of_action l item hj]
    exact Walk.writes_act_of_check (w := { w with units := field item 2 2 }) l h item a

/-- A completed read writes nothing in a check. -/
theorem Walk.writes_consume_of_check (bytes : List Byte) : (w.consume l bytes).2 = [] := by
  rw [Walk.consume]
  split
  · simp only [Walk.onHeader]
    split
    · rfl
    · exact Walk.writes_onItem_of_check l h bytes
  · exact Walk.writes_onItem_of_check l h _
  · simp only [Walk.onPoints, h]
    split <;> rfl
  · exact Walk.writes_of_check h _
  · exact Walk.writes_of_check h _

end

/-! ### What a burst of a walk does to it -/

section
variable (l : Layout) {w : Walk} {job : ReadJob} (hr : w.read = some job) (bytes : List Byte)
include hr

/-- A burst with an uncorrectable word ends the walk with MEMORY, and nothing is written from it (R62, R68). -/
theorem Walk.onBurst_of_failed : w.onBurst l bytes true = (w.fail .memory w.index, []) := by
  simp [Walk.onBurst, hr]

/-- A burst that does not complete the read goes on with the read behind it. -/
theorem Walk.onBurst_of_part (h : bytes.length < job.left) :
    w.onBurst l bytes false =
      ({ w with read := some ⟨job.address + bytes.length, job.left - bytes.length, job.got ++ bytes⟩ }, []) := by
  simp [Walk.onBurst, hr, Nat.not_le.mpr h]

/-- A burst that completes the read hands its bytes to the walk. -/
theorem Walk.onBurst_of_whole (h : job.left ≤ bytes.length) :
    w.onBurst l bytes false = ({ w with read := none } : Walk).consume l (job.got ++ bytes) := by
  simp [Walk.onBurst, hr, h]

/-- A burst of a check writes nothing (R61). -/
theorem Walk.writes_onBurst_of_check (h : w.plan = none) (failed : Bool) : (w.onBurst l bytes failed).2 = [] := by
  cases failed with
  | true => rw [Walk.onBurst_of_failed l hr]
  | false =>
    by_cases hb : job.left ≤ bytes.length
    · rw [Walk.onBurst_of_whole l hr bytes hb]
      exact Walk.writes_consume_of_check l h _
    · rw [Walk.onBurst_of_part l hr bytes (Nat.not_le.mp hb)]

end

/-! ### What a burst does to the state -/

/-- A walk put back is the user's; the other user's walk stays (R70). -/
theorem EditionReader.walk_putBack (r : EditionReader) (user other : Reader) (v : Walk) :
    (r.putBack user v).walk other = if other = user then some v else r.walk other := by
  cases user <;> cases other <;> rfl

/-- A burst reads at least one byte (log 6). -/
theorem burstSize_pos (wanted address left : Nat) : 0 < burstSize wanted address left :=
  Nat.lt_of_lt_of_le Nat.one_pos (Nat.le_max_left _ _)

/-- A read burst returns as many bytes as it reads. -/
theorem length_readBytes (m : Memory) (address length : Nat) : (m.readBytes address length).length = length := by
  simp [Memory.readBytes]

/-- With no write to make the Table Store stays. -/
theorem store_applyWrites_nil (s : State) : (applyWrites [] s).store = s.store := by
  rw [applyWrites, State.setStore_store, TableStore.modifyStaging]
  split <;> rfl

/-- What a walk makes of a burst of its read, with the writes that it asks for (R62, R66, R68). -/
def burstResult (size : Nat) (w : Walk) (job : ReadJob) (s : State) : Walk × List BankWrite :=
  w.onBurst s.layout (s.memory.readBytes job.address (burstSize size job.address job.left))
    (readFails job.address (burstSize size job.address job.left) s)

/-- A burst puts its walk back and makes the walk's writes (R66, R70). -/
theorem walkBurst_parts (size : Nat) (user : Reader) (w : Walk) (job : ReadJob) (s : State) :
    (walkBurst size user w job s).reader = s.reader.putBack user (burstResult size w job s).1 ∧
      (walkBurst size user w job s).store = (applyWrites (burstResult size w job s).2 s).store := by
  simp [walkBurst, burstResult, applyWrites]

/-- A burst granted to the edition reader is performed for the walk whose read was presented (R70). -/
theorem exec_burstGrant_of_editionReader {s : State} {user : Reader} {w : Walk} {job : ReadJob}
    (hg : nextGrant s = some .editionReader) (hp : s.reader.presented = some user) (hw : s.reader.walk user = some w)
    (hr : w.read = some job) (size : Nat) :
    exec (.burstGrant size) s =
      .next (walkBurst size user w job (s.setArbiter { s.arbiter with share := 0 })) := by
  have granted : exec (.burstGrant size) s = execBurstGrant size s := rfl
  simp [granted, execBurstGrant, hg, performBurst, editionBurst, hp, hw, hr, Arbiter.grantTo]

/-- Settles O43: the burst goes to the walk whose read was presented, which fails, goes on reading, or takes the bytes. -/
theorem editionBurst_spec : Obligations.EditionBurst := by
  intro s size user w job hg hp hw hr length failed
  let u := s.setArbiter { s.arbiter with share := 0 }
  let bytes := s.memory.readBytes job.address length
  have hbytes : bytes.length = length := length_readBytes _ _ _
  obtain ⟨hreader, hstore⟩ := walkBurst_parts size user w job u
  obtain ⟨hactive, hselect, hstaging⟩ := applyWrites_banks (burstResult size w job u).2 u
  have hfailed : readFails job.address length u = true ↔ failed := readFails_iff _ _ (burstSize_pos _ _ _) u
  have hresult : ∀ {b}, readFails job.address length u = b → burstResult size w job u = w.onBurst s.layout bytes b := by
    rintro _ rfl
    rfl
  have hunwritten : (burstResult size w job u).2 = [] → (walkBurst size user w job u).store = s.store := by
    intro h
    rw [hstore, h]
    exact store_applyWrites_nil u
  refine ⟨walkBurst size user w job u, (burstResult size w job u).1, exec_burstGrant_of_editionReader hg hp hw hr size,
    ?frame, ?arbiter, ?memory, ?queue, ?select, ?active, fun hc => hunwritten (Walk.writes_onBurst_of_check _ hr _ hc _),
    ?own, ?other, ?fails, ?part, ?whole⟩
  case frame =>
    intro p hp
    cases p <;> simp [Part.same, u] at hp ⊢
  case arbiter => simp [u]
  case memory => simp [walkBurst, afterRead_read, u]
  case queue => simp [u]
  case select => exact (congrArg TableStore.select hstore).trans hselect
  case active => exact (congrArg TableStore.active hstore).trans hactive
  case own => rw [hreader, EditionReader.walk_putBack, if_pos rfl]
  case other =>
    intro other ho
    rw [hreader, EditionReader.walk_putBack, if_neg ho]
    rfl
  case fails =>
    intro hf
    have h := (hresult (hfailed.mpr hf)).trans (Walk.onBurst_of_failed _ hr _)
    rw [h]
    exact ⟨hunwritten (by rw [h]), rfl, by rw [Walk.fail, Walk.reason_memory]⟩
  case part =>
    intro hf hl
    have h := (hresult (Bool.eq_false_iff.mpr (mt hfailed.mp hf))).trans
      (Walk.onBurst_of_part _ hr bytes (hbytes.symm ▸ hl))
    rw [h, hbytes]
    exact ⟨hunwritten (by rw [h]), rfl⟩
  case whole =>
    intro hf hl result
    have h : burstResult size w job u = result := (hresult (Bool.eq_false_iff.mpr (mt hfailed.mp hf))).trans
      (Walk.onBurst_of_whole _ hr bytes (hbytes.symm ▸ hl))
    rw [hstore, hstaging, h]
    exact ⟨rfl, rfl⟩

end Sys2Proof.Machine

namespace Sys2Proof.Machine

-- As above: one proof is checked after another.
set_option Elab.async false

/-! ## One trigger line by itself (R103 to R109) -/

/-- The combined level of a line by the present levels of a state (R106). -/
def Line.levelIn (line : Line) (s : State) : Bool :=
  line.setup.combine.level line.filtered (line.setup.alt.level s)

/-- A line after its delivery test (R107). -/
def Line.settle (line : Line) : Line :=
  if line.combined ≠ line.delivered ∧ line.holdOffActive = false then line.deliver else line

/-- A line after its combined level is recomputed and its delivery test made (R106, R107). -/
def Line.recompute (line : Line) (s : State) : Line := { line with combined := line.levelIn s }.settle

/-- A line whose combined level is that of the present levels, and whose undelivered edge waits for a hold-off (R106,
R107). -/
structure Line.SettledIn (line : Line) (s : State) : Prop where
  combined : line.combined = line.levelIn s
  waiting : line.combined ≠ line.delivered → line.holdOffActive = true

/-- The combined level that line `l` has now is that of the line by itself. -/
theorem combinedNow_eq (l : Fin 4) (s : State) : combinedNow l s = (s.triggers.lines.get l).levelIn s := rfl

/-- An alternate source's level follows the announcement, the layout and the link states of the ports alone (R104, R105). -/
theorem AltSource.level_of_linkStates {s t : State} (a : AltSource) (hs : t.source = s.source) (hl : t.layout = s.layout)
    (hp : ∀ p, (t.ports.get p).state = (s.ports.get p).state) : a.level t = a.level s := by
  cases a <;> simp [AltSource.level, hs, hl, hp]

/-- A port is used where some enabled channel is mapped to it (R148). -/
theorem Layout.used_iff {l : Layout} {p : Fin 6} : l.used p = true ↔ ∃ c, l.portOf c = some p := by
  simp [Layout.used, Layout.channelOf, lowest_isSome]

/-- An edge setting passes a direction where the edge setting is BOTH or names it (R109). -/
theorem EdgeSetting.passes_iff (e : EdgeSetting) (d : Direction) :
    e.passes d = true ↔ e = .both ∨ e = .rise ∧ d = .rise ∨ e = .fall ∧ d = .fall := by
  cases e <;> cases d <;> simp [EdgeSetting.passes]

/-- The delivery test leaves everything of a line but the delivered level and the hold-off (R107). -/
theorem Line.settle_keeps (line : Line) : line.settle.setup = line.setup ∧ line.settle.filtered = line.filtered ∧
    line.settle.run = line.run ∧ line.settle.combined = line.combined := by
  rw [Line.settle]
  split <;> exact ⟨rfl, rfl, rfl, rfl⟩

/-- A delivery leaves no edge undelivered (R107). -/
theorem Line.settledIn_deliver {line : Line} {s : State} (h : line.combined = line.levelIn s) :
    line.deliver.SettledIn s :=
  ⟨h, fun hne => absurd rfl hne⟩

/-- After the delivery test an undelivered edge waits for a hold-off (R107). -/
theorem Line.settledIn_settle {line : Line} {s : State} (h : line.combined = line.levelIn s) :
    line.settle.SettledIn s := by
  rw [Line.settle]
  split
  · exact Line.settledIn_deliver h
  · rename_i hn
    exact ⟨h, fun hne => by simpa using not_and.mp hn hne⟩

/-- A recomputation settles its line (R106, R107). -/
theorem Line.settledIn_recompute (line : Line) (s : State) : (line.recompute s).SettledIn s :=
  Line.settledIn_settle rfl

/-- Whether a line is settled follows the level of its alternate source alone, beside the line. -/
theorem Line.SettledIn.congr {line : Line} {s t : State} (h : line.SettledIn s)
    (ha : line.setup.alt.level t = line.setup.alt.level s) : line.SettledIn t := by
  refine ⟨h.combined.trans ?_, h.waiting⟩
  rw [Line.levelIn, Line.levelIn, ha]

/-- A settled line stays settled while the announcement, the layout and the link states of the ports do (R104, R105). -/
theorem Line.SettledIn.keep {line : Line} {s t : State} (h : line.SettledIn s) (hsource : t.source = s.source := by simp)
    (hlayout : t.layout = s.layout := by simp)
    (hports : ∀ p, (t.ports.get p).state = (s.ports.get p).state := by simp) : line.SettledIn t :=
  h.congr (AltSource.level_of_linkStates _ hsource hlayout hports)

/-- A recomputation follows the level of the line's alternate source alone, beside the line. -/
theorem Line.recompute_congr {line : Line} {s t : State} (ha : line.setup.alt.level t = line.setup.alt.level s) :
    line.recompute t = line.recompute s := by
  rw [Line.recompute, Line.recompute, Line.levelIn, Line.levelIn, ha]

/-! ## The lines after each operation of the Trigger Unit (R103 to R109) -/

/-- The lines after one is changed. -/
theorem lines_modifyLine (l : Fin 4) (f : Line → Line) (s : State) (a : Fin 4) :
    (modifyLine l f s).triggers.lines.get a =
      if a = l then f (s.triggers.lines.get a) else s.triggers.lines.get a :=
  Arr.get_modify _ _ _ _

/-- The lines after a delivery (R107). -/
theorem lines_deliverEdge (l : Fin 4) (s : State) (a : Fin 4) :
    (deliverEdge l s).triggers.lines.get a =
      if a = l then (s.triggers.lines.get a).deliver else s.triggers.lines.get a := by
  rw [← lines_modifyLine, deliverEdge]
  split <;> simp

/-- The lines after a delivery test (R107). -/
theorem lines_deliveryTest (l : Fin 4) (s : State) (a : Fin 4) :
    (deliveryTest l s).triggers.lines.get a =
      if a = l then (s.triggers.lines.get a).settle else s.triggers.lines.get a := by
  rw [deliveryTest]
  split
  · rename_i hd
    rw [lines_deliverEdge]
    split
    · rename_i ha
      rw [ha, Line.settle, if_pos hd]
    · rfl
  · rename_i hd
    split
    · rename_i ha
      rw [ha, Line.settle, if_neg hd]
    · rfl

/-- The lines after a recomputation (R106). -/
theorem lines_recompute (l : Fin 4) (s : State) (a : Fin 4) :
    (recompute l s).triggers.lines.get a =
      if a = l then (s.triggers.lines.get a).recompute s else s.triggers.lines.get a := by
  rw [recompute, lines_deliveryTest, lines_modifyLine]
  split
  · rename_i ha
    rw [ha, combinedNow_eq]
    rfl
  · rfl

/-- A recomputation gives its line the level of the present levels, which it does not change (R106). -/
theorem combined_recompute (l : Fin 4) (s : State) :
    ((recompute l s).triggers.lines.get l).combined = combinedNow l s := by
  rw [lines_recompute, if_pos rfl, Line.recompute, (Line.settle_keeps _).2.2.2]
  rfl

/-- Settles O32: the two alternate sources, the four combine settings, and the line that is recomputed. -/
theorem combinedLevel : Obligations.CombinedLevel := by
  intro s l p line alt
  have level : combinedNow l s = line.setup.combine.level line.filtered alt := rfl
  refine ⟨?aspect, ?portDown, fun hc => ?_, fun hc => ?_, fun hc => ?_, fun hc => ?_, rfl, combined_recompute l s,
    fun a ha => by rw [lines_recompute, if_neg ha]⟩
  case aspect =>
    rw [AltSource.level]
    cases s.source.announcement <;> simp
  case portDown => simp [AltSource.level, Layout.used_iff]
  all_goals rw [level, hc, Combine.level]

/-! ## Deliveries and the events of a line (R103, R107 to R109) -/

/-- A delivery whose direction the edge setting passes is handed on (R109). -/
theorem deliverEdge_of_passes {l : Fin 4} {s : State}
    (h : (s.triggers.lines.get l).setup.edge.passes (s.triggers.lines.get l).direction = true) :
    deliverEdge l s = passEdge l (s.triggers.lines.get l).direction (modifyLine l Line.deliver s) := by
  rw [deliverEdge]
  exact if_pos h

/-- A delivery whose direction the edge setting does not pass changes its line alone (R109). -/
theorem deliverEdge_of_not_passes {l : Fin 4} {s : State}
    (h : ¬ (s.triggers.lines.get l).setup.edge.passes (s.triggers.lines.get l).direction = true) :
    deliverEdge l s = modifyLine l Line.deliver s := by
  rw [deliverEdge]
  exact if_neg h

/-- A delivery changes the Trigger Unit and the notices alone. -/
theorem sameBut_deliverEdge (l : Fin 4) (s : State) : State.sameBut [.triggers, .link] s (deliverEdge l s) := by
  intro p hp
  cases p <;> simp [Part.same] at hp ⊢

/-- Settles O33: the line delivered, the edge passed or kept, and the delivery test. -/
theorem edgeDelivered : Obligations.EdgeDelivered := by
  intro s l line direction passed
  have hpass : passed ↔ line.setup.edge.passes line.direction = true := (EdgeSetting.passes_iff _ _).symm
  refine ⟨?line, fun a ha => by rw [lines_deliverEdge, if_neg ha], fun hp => ?passed, fun hp => ?kept,
    sameBut_deliverEdge l s, fun hd => if_pos hd, fun hn => if_neg ?test⟩
  case line =>
    rw [lines_deliverEdge, if_pos rfl, Line.deliver]
    simp only [Nat.pos_iff_ne_zero]
    rfl
  case passed =>
    rw [deliverEdge_of_passes (hpass.mp hp)]
    exact ⟨rfl, rfl⟩
  case kept =>
    rw [deliverEdge_of_not_passes (mt hpass.mpr hp)]
    exact ⟨rfl, rfl⟩
  case test =>
    rintro ⟨hne, hoff⟩
    rcases hn with he | hon
    · exact hne he
    · exact absurd (hoff.symm.trans hon) (by decide)

/-- The level change of a line that is due (R103). -/
theorem filterChange_of_due {l : Fin 4} {s : State} (hr : s.triggers.runMark = true)
    (hd : (s.triggers.lines.get l).levelDue = true) :
    filterChange l s =
      recompute l (modifyLine l (fun line => { line with filtered := line.pin, run := 0, levelDue := false }) s) :=
  if_pos ⟨hr, hd⟩

/-- Without a level change due on a line, or while the run mark is clear, nothing happens (R103, R112). -/
theorem filterChange_of_not_due {l : Fin 4} {s : State}
    (h : s.triggers.runMark = true → (s.triggers.lines.get l).levelDue = false) : filterChange l s = s :=
  if_neg fun ⟨hr, hd⟩ => absurd (hd.symm.trans (h hr)) (by decide)

/-- A hold-off has expired where it runs with nothing left (R108). -/
theorem Line.expired_iff (line : Line) : line.expired = true ↔ line.holdOffActive = true ∧ line.holdOffLeft = 0 := by
  simp [Line.expired]

/-- The expiry of a hold-off with an undelivered edge: the catch-up edge (R108). -/
theorem holdOffExpiry_of_catchUp {l : Fin 4} {s : State} (hr : s.triggers.runMark = true)
    (he : (s.triggers.lines.get l).expired = true)
    (hne : (s.triggers.lines.get l).combined ≠ (s.triggers.lines.get l).delivered) :
    holdOffExpiry l s = deliverEdge l s := by
  rw [holdOffExpiry]
  exact (if_pos ⟨hr, he⟩).trans (if_pos hne)

/-- The expiry of a hold-off with every edge delivered: the hold-off ends (R108). -/
theorem holdOffExpiry_of_delivered {l : Fin 4} {s : State} (hr : s.triggers.runMark = true)
    (he : (s.triggers.lines.get l).expired = true)
    (heq : (s.triggers.lines.get l).combined = (s.triggers.lines.get l).delivered) :
    holdOffExpiry l s = modifyLine l (fun line => { line with holdOffActive := false }) s := by
  rw [holdOffExpiry]
  exact (if_pos ⟨hr, he⟩).trans (if_neg (not_not.mpr heq))

/-- Without an expired hold-off on a line, or while the run mark is clear, nothing happens (R108, R112). -/
theorem holdOffExpiry_of_not_expired {l : Fin 4} {s : State}
    (h : s.triggers.runMark = true → ¬ (s.triggers.lines.get l).expired = true) : holdOffExpiry l s = s := by
  rw [holdOffExpiry]
  exact if_neg fun ⟨hr, he⟩ => h hr he

/-- A line changed as its own present value says is changed by that value. -/
theorem modifyLine_congr {l : Fin 4} {s : State} {f g : Line → Line}
    (h : f (s.triggers.lines.get l) = g (s.triggers.lines.get l)) : modifyLine l f s = modifyLine l g s := by
  rw [modifyLine, modifyLine, Arr.modify, Arr.modify, h]

/-- Settles O34: the level change that is due, and the two ends of a hold-off. -/
theorem lineEvents : Obligations.LineEvents := by
  intro s l hrun line
  refine ⟨fun hdue => ?_, fun hon hleft heq => ?_, fun hon hleft hne => ?_⟩
  · set taken := modifyLine l (fun x => { x with filtered := line.pin, run := 0, levelDue := false }) s with htaken
    have hline : taken.triggers.lines.get l = { line with filtered := line.pin, run := 0, levelDue := false } := by
      rw [htaken, lines_modifyLine, if_pos rfl]
    have hchange : filterChange l s = recompute l taken :=
      (filterChange_of_due hrun hdue).trans (congrArg (recompute l) (modifyLine_congr rfl))
    have hrecomputed : (recompute l taken).triggers.lines.get l = (taken.triggers.lines.get l).recompute taken := by
      rw [lines_recompute, if_pos rfl]
    obtain ⟨-, hfiltered, hcount, -⟩ := Line.settle_keeps
      { taken.triggers.lines.get l with combined := (taken.triggers.lines.get l).levelIn taken }
    refine ⟨recompute l taken, congrArg Host.Outcome.next hchange, fun p hp => ?_, rfl, ?_, ?_, ?_⟩
    · cases p <;> simp [Part.same, htaken] at hp ⊢
    · rw [hrecomputed, Line.recompute, hfiltered, hline]
    · rw [hrecomputed, Line.recompute, hcount, hline]
    · have hsettled := Line.settledIn_recompute (taken.triggers.lines.get l) taken
      rw [← hrecomputed] at hsettled
      exact (hsettled.keep (t := recompute l taken)).combined
  · exact congrArg Host.Outcome.next (holdOffExpiry_of_delivered hrun ((Line.expired_iff _).mpr ⟨hon, hleft⟩) heq)
  · exact congrArg Host.Outcome.next (holdOffExpiry_of_catchUp hrun ((Line.expired_iff _).mpr ⟨hon, hleft⟩) hne)

/-! ## The trigger lines stay settled (R99, R106, R107, R112) -/

section
variable {s t : State}

/-- While the device is RUNNING the bounds are the run mark and that every line is settled. -/
theorem triggersOk_of_running (hd : s.device.state = .running) (hm : s.triggers.runMark = true)
    (hl : ∀ l, (s.triggers.lines.get l).SettledIn s) : s.TriggersOk where
  running := iff_of_true hm hd
  combined _ l := (hl l).combined
  waiting _ l := (hl l).waiting
  frozen hn := absurd (hm.symm.trans hn) (by decide)

/-- Outside RUNNING the bounds are that the run mark is clear, no edge waits, and no hold-off runs (R112). -/
theorem triggersOk_of_frozen (hd : s.device.state ≠ .running) (hm : s.triggers.runMark = false)
    (he : s.triggers.edges = []) (hh : ∀ l, (s.triggers.lines.get l).holdOffActive = false) : s.TriggersOk where
  running := iff_of_false (by simp [hm]) hd
  combined hn := absurd (hm.symm.trans hn) (by decide)
  waiting hn := absurd (hm.symm.trans hn) (by decide)
  frozen _ := ⟨he, hh⟩

namespace State.TriggersOk

/-- While the run mark stands every line is settled. -/
theorem settled (h : s.TriggersOk) (hm : s.triggers.runMark = true) (l : Fin 4) :
    (s.triggers.lines.get l).SettledIn s :=
  ⟨h.combined hm l, h.waiting hm l⟩

/-- Outside RUNNING the run mark is clear (R99). -/
theorem runMark_of_not_running (h : s.TriggersOk) (hd : s.device.state ≠ .running) : s.triggers.runMark = false := by
  simpa using mt h.running.mp hd

/-- A change outside the Trigger Unit that leaves the alternate sources as they are. -/
theorem congr (h : s.TriggersOk) (htriggers : t.triggers = s.triggers := by simp)
    (hdevice : t.device.state = .running ↔ s.device.state = .running := by simp)
    (hsource : t.source = s.source := by simp) (hlayout : t.layout = s.layout := by simp)
    (hports : ∀ p, (t.ports.get p).state = (s.ports.get p).state := by simp) : t.TriggersOk := by
  have level : ∀ l, combinedNow l t = combinedNow l s := by
    intro l
    rw [combinedNow_eq, combinedNow_eq, htriggers, Line.levelIn, Line.levelIn,
      AltSource.level_of_linkStates _ hsource hlayout hports]
  obtain ⟨running, combined, waiting, frozen⟩ := h
  rw [← htriggers] at running combined waiting frozen
  exact ⟨running.trans hdevice.symm, fun hm l => (combined hm l).trans (level l).symm, waiting, frozen⟩

/-- While the run mark is clear the alternate sources are free (R112). -/
theorem congr_of_clear (h : s.TriggersOk) (hm : s.triggers.runMark = false)
    (hdevice : t.device.state ≠ .running) (htriggers : t.triggers = s.triggers := by simp) : t.TriggersOk := by
  obtain ⟨hedges, hholds⟩ := h.frozen hm
  exact triggersOk_of_frozen hdevice (by rw [htriggers, hm]) (by rw [htriggers, hedges]) (by rw [htriggers]; exact hholds)

/-- A change of the lines while the run mark stands keeps the bounds where it leaves every line settled. -/
theorem ofLines (h : s.TriggersOk) (hm : s.triggers.runMark = true) (hl : ∀ l, (t.triggers.lines.get l).SettledIn t)
    (hmark : t.triggers.runMark = s.triggers.runMark := by simp)
    (hdevice : t.device.state = s.device.state := by simp) : t.TriggersOk :=
  triggersOk_of_running (hdevice.trans (h.running.mp hm)) (hmark.trans hm) hl

/-- An operation on one line of the Trigger Unit keeps the bounds where it leaves that line settled. -/
theorem ofLine (h : s.TriggersOk) (hm : s.triggers.runMark = true) (l : Fin 4) (line : Line) (hline : line.SettledIn s)
    (hget : ∀ a, t.triggers.lines.get a = if a = l then line else s.triggers.lines.get a)
    (hmark : t.triggers.runMark = s.triggers.runMark := by simp)
    (hdevice : t.device.state = s.device.state := by simp) (hsource : t.source = s.source := by simp)
    (hlayout : t.layout = s.layout := by simp) (hports : ∀ p, (t.ports.get p).state = (s.ports.get p).state := by simp) :
    t.TriggersOk := by
  refine h.ofLines hm (fun a => ?_) hmark hdevice
  rw [hget]
  split
  · exact hline.keep hsource hlayout hports
  · exact (h.settled hm a).keep hsource hlayout hports

end State.TriggersOk

/-! ### The Trigger Unit's own events -/

/-- Edges marked as of one moment leave the lines (R110). -/
theorem lines_joinMoment (n : Nat) (s : State) : (joinMoment n s).triggers.lines = s.triggers.lines := rfl

/-- Edges marked as of one moment leave the lines settled, and make no edge where none waits (R110, R112). -/
theorem triggersOk_joinMoment (h : s.TriggersOk) (n : Nat) : (joinMoment n s).TriggersOk := by
  cases hm : s.triggers.runMark with
  | true =>
    refine h.ofLines hm fun l => ?_
    rw [lines_joinMoment]
    exact (h.settled hm l).keep
  | false =>
    have hedges : s.triggers.edges.length ≤ n + 1 := by simp [(h.frozen hm).1]
    rwa [joinMoment_of_le n s hedges]

/-- A level change that is due recomputes its line (R103, R106). -/
theorem triggersOk_filterChange (h : s.TriggersOk) (l : Fin 4) : (filterChange l s).TriggersOk := by
  rw [filterChange]
  split
  · rename_i hdue
    set taken := modifyLine l (fun line => { line with filtered := line.pin, run := 0, levelDue := false }) s with htaken
    refine h.ofLine hdue.1 l ((taken.triggers.lines.get l).recompute taken)
      ((Line.settledIn_recompute _ _).keep (by simp [htaken]) (by simp [htaken]) (by simp [htaken]))
      (fun a => ?_) (by simp [htaken]) (by simp [htaken]) (by simp [htaken]) (by simp [htaken]) (by simp [htaken])
    rw [lines_recompute]
    split
    · rename_i ha
      rw [ha]
    · rename_i ha
      rw [htaken, lines_modifyLine, if_neg ha]
  · exact h

/-- The expiry of a hold-off delivers the edge that waits for it, or finds none (R108). -/
theorem triggersOk_holdOffExpiry (h : s.TriggersOk) (l : Fin 4) : (holdOffExpiry l s).TriggersOk := by
  rw [holdOffExpiry]
  split
  · rename_i hdue
    have hline := h.settled hdue.1 l
    split
    · refine h.ofLine hdue.1 l _ (Line.settledIn_deliver hline.combined) fun a => ?_
      rw [lines_deliverEdge]
      split
      · rename_i ha
        rw [ha]
      · rfl
    · rename_i heq
      refine h.ofLine hdue.1 l { s.triggers.lines.get l with holdOffActive := false }
        ⟨hline.combined, fun hne => absurd hne heq⟩ fun a => ?_
      rw [lines_modifyLine]
      split
      · rename_i ha
        rw [ha]
      · rfl
  · exact h

/-- An edge taken by the Bay Controller leaves the lines; it is taken while RUNNING (R91, R110). -/
theorem triggersOk_takeEdge (h : s.TriggersOk) (l : Fin 4) : (takeEdge l s).TriggersOk := by
  rw [takeEdge]
  split
  · exact h
  · split
    · rename_i e _ hd
      have hm := h.running.mpr hd
      have taken : (s.setTriggers { s.triggers with edges := s.triggers.edges.erase e }).TriggersOk :=
        ⟨h.running, h.combined, h.waiting, fun hn => absurd (hm.symm.trans hn) (by decide)⟩
      exact taken.congr
    · exact h

/-- The choices counted stand beside the lines. -/
theorem triggersOk_countChoice (h : s.TriggersOk) (n : Nat) :
    (s.setTriggers { s.triggers with choices := n }).TriggersOk :=
  ⟨h.running, h.combined, h.waiting, h.frozen⟩

end

/-! ### Several lines at one moment (R100, R104 to R106) -/

/-- Two states show the alternate sources alike (R104, R105). -/
def sameSources (s t : State) : Prop := t.source = s.source ∧ t.layout = s.layout ∧ t.ports = s.ports

/-- An alternate source's level where the sources are alike. -/
theorem sameSources.level {s t : State} (h : sameSources s t) (a : AltSource) : a.level t = a.level s :=
  AltSource.level_congr a h.1 h.2.1 h.2.2

/-- A line after a change of the alternate sources: recomputed where it selects one that changed (R104 to R106). -/
def Line.followAlt (line : Line) (before s : State) : Line :=
  if line.setup.alt.level before ≠ line.setup.alt.level s then line.recompute s else line

/-- A line settled before a change of the alternate sources is settled after it. -/
theorem Line.settledIn_followAlt {line : Line} {before : State} (h : line.SettledIn before) (s : State) :
    (line.followAlt before s).SettledIn s := by
  rw [Line.followAlt]
  split
  · exact Line.settledIn_recompute line s
  · rename_i hsame
    exact h.congr (not_not.mp hsame).symm

/-- A line after a newly latched setup: recomputed where combine or the alternate source changed (R101). -/
def Line.latch (line : Line) (setup : LineSetup) (s : State) : Line :=
  let latched := { line with setup := setup }
  if setup.combine ≠ line.setup.combine ∨ setup.alt ≠ line.setup.alt then latched.recompute s else latched

/-- A line settled before its setup is latched is settled after it. -/
theorem Line.settledIn_latch {line : Line} {s : State} (h : line.SettledIn s) (setup : LineSetup) :
    (line.latch setup s).SettledIn s := by
  rw [Line.latch]
  split
  · exact Line.settledIn_recompute _ s
  · rename_i hsame
    obtain ⟨hcombine, halt⟩ := not_or.mp hsame
    refine ⟨h.combined.trans ?_, h.waiting⟩
    rw [Line.levelIn, Line.levelIn, not_not.mp hcombine, not_not.mp halt]

/-- The lines after the alternate sources may have changed, while the run mark stands (R104 to R106). -/
theorem lines_settleAlt {s : State} (hm : s.triggers.runMark = true) (before : State) (a : Fin 4) :
    (settleAlt before s).triggers.lines.get a = (s.triggers.lines.get a).followAlt before s := by
  rw [settleAlt, if_pos hm, lines_joinMoment]
  refine foldl_allOf_get_of (sameSources s) (fun a (t : State) => t.triggers.lines.get a) _
    (fun a line => if (s.triggers.lines.get a).setup.alt.level before ≠ (s.triggers.lines.get a).setup.alt.level s
      then line.recompute s else line) (fun t b ht => ?_) (fun t b a ht => ?_) s ⟨rfl, rfl, rfl⟩ a
  · dsimp only
    split
    · simpa [sameSources] using ht
    · exact ht
  · dsimp only
    by_cases hab : a = b
    · rw [hab, if_pos rfl]
      split
      · rw [lines_recompute, if_pos rfl, Line.recompute_congr (ht.level _)]
      · rfl
    · rw [if_neg hab]
      split
      · rw [lines_recompute, if_neg hab]
      · rfl

/-- The lines after one latches a setup (R101). -/
theorem lines_latchLine (l : Fin 4) (setup : LineSetup) (s : State) (a : Fin 4) :
    (latchLine l setup s).triggers.lines.get a =
      if a = l then (s.triggers.lines.get a).latch setup s else s.triggers.lines.get a := by
  have latched : ∀ b, (modifyLine l (fun line => { line with setup := setup }) s).triggers.lines.get b =
      if b = l then { s.triggers.lines.get b with setup := setup } else s.triggers.lines.get b :=
    lines_modifyLine l _ s
  rw [latchLine]
  by_cases ha : a = l
  · rw [if_pos ha, ha, Line.latch]
    split
    · rw [lines_recompute, if_pos rfl, latched, if_pos rfl,
        Line.recompute_congr (s := s) (AltSource.level_congr _ (by simp) (by simp) (by simp))]
    · rw [latched, if_pos rfl]
  · rw [if_neg ha]
    split
    · rw [lines_recompute, if_neg ha, latched, if_neg ha]
    · rw [latched, if_neg ha]

/-- The lines after the four setup records are latched, while the run mark stands (R100, R101). -/
theorem lines_latchSetups {s : State} (hm : s.triggers.runMark = true) (a : Fin 4) :
    (latchSetups s).triggers.lines.get a = (s.triggers.lines.get a).latch (s.setupRecord a) s := by
  have read := foldl_preserves (fun t : State => sameSources s t ∧ t.triggers = s.triggers)
    (fun t l => afterControlRead (setupOffset l) setupBytes t)
    (fun t l ht => by simpa [sameSources] using ht) (allOf 4) s ⟨⟨rfl, rfl, rfl⟩, rfl⟩
  rw [latchSetups, if_pos hm, lines_joinMoment, ← read.2]
  refine foldl_allOf_get_of (sameSources s) (fun a (t : State) => t.triggers.lines.get a) _
    (fun a line => line.latch (s.setupRecord a) s) (fun t b ht => by simpa [sameSources] using ht)
    (fun t b a ht => ?_) _ read.1 a
  rw [lines_latchLine]
  split
  · rename_i hab
    rw [Line.latch, Line.latch, Line.recompute_congr (ht.level _), hab]
  · rfl

section
variable {s : State}

/-- A change of the alternate sources that the lines follow keeps the bounds, whatever the sources show now (R104, R105). -/
theorem triggersOk_settleAlt {before : State} (h : before.TriggersOk) (htriggers : s.triggers = before.triggers := by simp)
    (hdevice : s.device.state = before.device.state := by simp) : (settleAlt before s).TriggersOk := by
  cases hm : before.triggers.runMark with
  | true =>
    refine h.ofLines hm (fun l => ?_) (by simp [htriggers]) (by simp [hdevice])
    rw [lines_settleAlt (by rw [htriggers, hm]), htriggers]
    exact (Line.settledIn_followAlt (h.settled hm l) s).keep
  | false =>
    rw [settleAlt, if_neg (by simp [htriggers, hm])]
    refine h.congr_of_clear hm (fun hd => ?_) htriggers
    rw [hdevice, ← h.running, hm] at hd
    cases hd

/-- The latch of the setup records keeps the bounds (R100, R101). -/
theorem triggersOk_latchSetups (h : s.TriggersOk) : (latchSetups s).TriggersOk := by
  cases hm : s.triggers.runMark with
  | true =>
    refine h.ofLines hm fun l => ?_
    rw [lines_latchSetups hm]
    exact (Line.settledIn_latch (h.settled hm l) _).keep
  | false =>
    rw [latchSetups, if_neg (by simp [hm])]
    exact h

/-- The Trigger Unit's part of an output frame start keeps the bounds (R100, R110). -/
theorem triggersOk_triggersPart (h : s.TriggersOk) (early : List (Fin 4)) : (triggersPart early s).TriggersOk :=
  foldl_preserves State.TriggersOk _ (fun _ l ht => triggersOk_takeEdge ht l) early _ (triggersOk_latchSetups h)

/-- The lines follow the source link (R104, R119). -/
theorem triggersOk_followLink (h : s.TriggersOk) (link : Option Format) : (followLink link s).TriggersOk :=
  triggersOk_settleAlt h

/-! ### Ports (R105, R150 to R152) -/

/-- The lines follow the link state of a port (R105, R151). -/
theorem triggersOk_changePort (h : s.TriggersOk) (p : Fin 6) (f : Port → Port) : (changePort p f s).TriggersOk :=
  triggersOk_settleAlt h

/-- A failed attempt keeps the bounds (R152). -/
theorem triggersOk_failAttempt (h : s.TriggersOk) (p : Fin 6) : (failAttempt p s).TriggersOk := by
  have failed := triggersOk_changePort h p Port.fail
  rw [failAttempt]
  split
  · exact failed.congr
  · exact failed

/-- A presence rise keeps the bounds (R151). -/
theorem triggersOk_presenceRise (h : s.TriggersOk) (p : Fin 6) : (presenceRise p s).TriggersOk := by
  rw [presenceRise]
  split
  · exact triggersOk_changePort h p _
  · exact h

/-- A presence fall keeps the bounds (R151). -/
theorem triggersOk_presenceFall (h : s.TriggersOk) (p : Fin 6) : (presenceFall p s).TriggersOk := by
  rw [presenceFall]
  split
  · exact triggersOk_changePort h p _
  · exact h

/-- The expiry of an attempt timer keeps the bounds (R152). -/
theorem triggersOk_attemptExpiry (h : s.TriggersOk) (p : Fin 6) : (attemptExpiry p s).TriggersOk := by
  rw [attemptExpiry]
  split
  · exact triggersOk_failAttempt h p
  · exact h

/-- The expiry of a retry timer keeps the bounds (R152). -/
theorem triggersOk_retryExpiry (h : s.TriggersOk) (p : Fin 6) : (retryExpiry p s).TriggersOk := by
  rw [retryExpiry]
  split
  · exact triggersOk_changePort h p _
  · exact h

/-! ### The sample tick (R102, R108, R150) -/

/-- The events of the tick before keep the bounds (R103, R108, R150, R152). -/
theorem triggersOk_settleTick (h : s.TriggersOk) : (settleTick s).TriggersOk := by
  have lines : ((allOf 4).foldl (fun t l => settleLine l t) s).TriggersOk :=
    foldl_preserves State.TriggersOk _ (fun _ l ht => triggersOk_holdOffExpiry (triggersOk_filterChange ht l) l) _ _ h
  refine triggersOk_joinMoment (foldl_preserves State.TriggersOk _ (fun t p ht => ?_) _ _ lines) _
  exact triggersOk_retryExpiry (triggersOk_attemptExpiry (triggersOk_presenceFall (triggersOk_presenceRise ht p) p) p) p

/-- A sample of the pin and the count of the hold-off leave what a line's bounds speak of (R102, R103, R108). -/
theorem Line.sample_tickHoldOff_keeps (line : Line) (pin : Bool) :
    (line.sample pin).tickHoldOff =
      { line with
        pin := pin
        run := (line.sample pin).run
        levelDue := (line.sample pin).levelDue
        holdOffLeft := if line.holdOffActive then line.holdOffLeft - 1 else line.holdOffLeft } := by
  have sampled : line.sample pin =
      { line with pin := pin, run := (line.sample pin).run, levelDue := (line.sample pin).levelDue } := by
    rw [Line.sample]
    split
    · rfl
    · split <;> rfl
  rw [sampled, Line.tickHoldOff]
  split
  · rename_i hon
    simp [show line.holdOffActive = true from hon]
  · rename_i hoff
    simp [show ¬ line.holdOffActive = true from hoff]

/-- The lines after a sample tick, while the run mark stands (R102, R103, R108). -/
theorem lines_tickLines {s : State} (hm : s.triggers.runMark = true) (pins : BitVec 4) (l : Fin 4) :
    (tickLines pins s).triggers.lines.get l = ((s.triggers.lines.get l).sample (pins.getLsbD l.val)).tickHoldOff := by
  rw [tickLines, if_pos hm, State.setTriggers_triggers, Arr.get_build]

/-- Sampling and counting keep the bounds (R102, R108). -/
theorem triggersOk_tickLines (h : s.TriggersOk) (pins : BitVec 4) : (tickLines pins s).TriggersOk := by
  cases hm : s.triggers.runMark with
  | true =>
    refine h.ofLines hm fun l => ?_
    obtain ⟨hcombined, hwaiting⟩ := h.settled hm l
    rw [lines_tickLines hm, Line.sample_tickHoldOff_keeps]
    exact Line.SettledIn.keep (s := s) ⟨hcombined, hwaiting⟩
  | false =>
    rw [tickLines, if_neg (by simp [hm])]
    exact h

/-- A sample tick keeps the bounds (R102, R150). -/
theorem triggersOk_sampleTick (h : s.TriggersOk) (pins : BitVec 4) (presence : BitVec 6) :
    (tickPorts presence (tickLines pins (settleTick s))).TriggersOk := by
  refine (triggersOk_tickLines (triggersOk_settleTick h) pins).congr (hports := fun p => ?_)
  rw [tickPorts, State.setPorts_ports, Arr.get_build]
  exact (Port.sample_tickTimers_keeps _ _).1

end

/-! ### The output frame start (R135, R182) -/

section
variable {s : State}

/-- The channels' response leaves the link states of the ports (R157). -/
theorem linkState_channelsAtFrameStart (s : State) (p : Fin 6) :
    ((channelsAtFrameStart s).ports.get p).state = (s.ports.get p).state := by
  rw [ports_channelsAtFrameStart, Arr.get_map]

/-- The blocks' responses keep the bounds: the start that ends a STOP finds the run mark clear (R112, R182). -/
theorem triggersOk_blocksAtFrameStart (h : s.TriggersOk) (ending : Bool) (early : List (Fin 4))
    (he : ending = true → s.device.state ≠ .running) : (blocksAtFrameStart ending early s).TriggersOk := by
  have dealt : (baysPart (triggersPart early s)).TriggersOk := (triggersOk_triggersPart h early).congr
  simp only [blocksAtFrameStart]
  split
  · rename_i hend
    have stopping : (baysPart (triggersPart early s)).device.state ≠ .running := by simpa using he hend
    exact dealt.congr_of_clear (dealt.runMark_of_not_running stopping) (by simp [endStop])
  · have handed : (captureAtFrameStart (baysPart (triggersPart early s))).TriggersOk := dealt.congr
    exact handed.congr (hports := linkState_channelsAtFrameStart _)

/-- An output frame start keeps the bounds (R135). -/
theorem triggersOk_issueFrameStart (h : s.TriggersOk) (now : Nat) (order : StartOrder) :
    (issueFrameStart now order s).TriggersOk := by
  have counted : (countStop (setTimingNoticed (s.timing.startAt now) s)).TriggersOk := h.congr
  have hend : s.ending = true → s.device.state ≠ .running := by
    intro he
    simp only [State.ending, decide_eq_true_eq] at he
    simp [he.1]
  have acknowledged : ∀ {u : State}, u.TriggersOk → (acknowledgeFault u).TriggersOk := fun hu => hu.congr
  have snapped : ∀ {u : State}, u.TriggersOk → (snapshot u).TriggersOk := fun hu => hu.congr
  simp only [issueFrameStart]
  split
  · exact snapped (triggersOk_blocksAtFrameStart (acknowledged counted) _ _ (by simpa using hend))
  · exact snapped (acknowledged (triggersOk_blocksAtFrameStart counted _ _ (by simpa using hend)))

/-- An output frame start where one is due keeps the bounds. -/
theorem triggersOk_issueIf (h : s.TriggersOk) (due : Bool) (now : Nat) (order : StartOrder) :
    (issueIf due now order s).TriggersOk := by
  rw [issueIf]
  split
  · exact triggersOk_issueFrameStart h now order
  · exact h

/-! ### START, STOP and the resets (R111 to R113, R177 to R185) -/

/-- A device reset clears the run mark, the edges and the hold-offs (R113, R183). -/
theorem triggersOk_deviceReset (s : State) : (deviceReset s).TriggersOk :=
  triggersOk_of_frozen (by simp [deviceReset, resetDevice]) rfl rfl
    fun l => by simp [deviceReset, clearedTriggers, resetLine]

/-- A START taken while IDLE does not reach RUNNING (R177). -/
theorem triggersOk_takeStart (h : s.TriggersOk) : (takeStart s).TriggersOk := by
  refine h.congr (hdevice := ?_)
  rw [takeStart]
  split
  · rename_i hi
    split <;> simp [hi, refuseArea, enterStarting]
  · rfl

/-- Entry to STOPPING clears the run mark, the edges and the hold-offs (R112, R181). -/
theorem triggersOk_enterStopping (s : State) : (enterStopping s).TriggersOk := by
  have hstopped : (enterStopping s).triggers =
      { s.triggers with runMark := false, lines := s.triggers.lines.map Line.freeze, edges := [] } := by
    simp [enterStopping, stopTriggers]
  refine triggersOk_of_frozen (by simp [enterStopping]) (by rw [hstopped]) (by rw [hstopped]) fun l => ?_
  rw [hstopped, Arr.get_map, Line.freeze]

/-- A STOP keeps the bounds in every device state (R179, R181). -/
theorem triggersOk_takeStop (h : s.TriggersOk) : (takeStop s).TriggersOk := by
  rw [takeStop]
  split
  case h_2 hs => exact h.congr (hdevice := by simp [hs, leaveStarting])
  case h_3 => exact triggersOk_enterStopping s
  all_goals exact h

/-- A register access keeps the bounds (R185). -/
theorem triggersOk_performRegister (h : s.TriggersOk) (a : RegisterAccess) : (performRegister a s).TriggersOk := by
  cases a with
  | start => exact triggersOk_takeStart h
  | stop => exact triggersOk_takeStop h
  | reset => exact triggersOk_deviceReset s
  | areaBase w =>
    simp only [performRegister]
    split
    · exact h.congr
    · exact h
  | notice w => exact h.congr (t := s.setLink _)
  | noticeEnable w => exact h.congr (t := s.setLink _)
  | ignored => exact h

/-- An access that the link delivers keeps the bounds (R185). -/
theorem triggersOk_deliver (h : s.TriggersOk) (a : RegisterAccess) : (deliver a s).TriggersOk := by
  rw [deliver]
  split
  · exact triggersOk_performRegister h a
  · exact h.congr

/-- Every line begins settled, with nothing to deliver (R111). -/
theorem settledIn_initialLine (setup : LineSetup) (pin : Bool) (s : State) :
    (initialLine setup pin (setup.alt.level s)).SettledIn s :=
  ⟨rfl, fun hne => absurd rfl hne⟩

/-- Entry to RUNNING begins every line settled, after the ports and the source link are as they will be (R111, R180). -/
theorem triggersOk_enterRunning (now : Nat) (pins : BitVec 4) (hd : Header) (returned : List (StartBlock × List Byte))
    (s : State) : (enterRunning now pins hd returned s).TriggersOk := by
  have started : ∀ (setup : Fin 4 → LineSetup) (u : State) (l : Fin 4),
      ((initialiseLines setup pins u).triggers.lines.get l).SettledIn (initialiseLines setup pins u) := by
    intro setup u l
    rw [lines_initialiseLines]
    exact (settledIn_initialLine _ _ u).keep
  have marked : ∀ (setup : Fin 4 → LineSetup) (u : State), (initialiseLines setup pins u).triggers.runMark = true :=
    fun _ _ => rfl
  refine triggersOk_of_running (by simp [enterRunning]) (by simp [enterRunning, marked]) fun l => ?_
  simp only [enterRunning, snapshot_frame, raiseNotice_frame, setTimingNoticed_frame, State.setDevice_triggers]
  exact (started _ _ l).keep

/-! ### Bursts (R167, R168) -/

/-- Performing the register accesses delivered next keeps the bounds (R185). -/
theorem triggersOk_drain (h : s.TriggersOk) (q : List LinkAccess) : (drain q s).TriggersOk := by
  have held : ∀ {u : State}, u.TriggersOk → ∀ v, (u.setLink v).TriggersOk := fun hu _ => hu.congr
  induction q generalizing s with
  | nil => exact held h _
  | cons a q ih =>
    cases a with
    | register a => exact ih (triggersOk_performRegister (held h _) a)
    | write address data => exact held h _
    | read address length got => exact held h _

/-- The host link's burst keeps the bounds (R167, R185). -/
theorem triggersOk_hostBurst (h : s.TriggersOk) : (hostBurst s).TriggersOk := by
  rw [hostBurst]
  split
  · exact h
  · exact h
  · simp only [hostWriteBurst]
    split
    · exact triggersOk_drain h.congr _
    · exact h.congr
  · simp only [hostReadBurst]
    split
    · exact triggersOk_drain h.congr _
    · exact h.congr

/-- A granted burst keeps the bounds (R168). -/
theorem triggersOk_performBurst (h : s.TriggersOk) (size : Nat) (r : Requester) : (performBurst size r s).TriggersOk := by
  cases r with
  | captureWriter => exact h.congr (t := captureBurst size s)
  | fetcher c => exact h.congr (t := fetchBurst size c s)
  | hostLink => exact triggersOk_hostBurst h
  | editionReader => exact h.congr (t := editionBurst size s)
  | statusWriter => exact h.congr (t := statusBurst s)

/-! ### Every command and every step -/

/-- CHECK_DONE leaves the trigger lines (R83). -/
theorem triggersOk_checkDone (h : s.TriggersOk) : (execCheckDone s).Leads State.TriggersOk := by
  rw [execCheckDone]
  split
  · exact leads_next h
  · exact leads_next h.congr

/-- LOAD_DONE leaves the trigger lines (R89). -/
theorem triggersOk_loadDone (h : s.TriggersOk) : (execLoadDone s).Leads State.TriggersOk := by
  rw [execLoadDone]
  split
  · exact leads_next h
  · exact leads_next h.congr

/-- PASSED_EDGE takes an edge that waits, and leaves the lines (R91, R110). -/
theorem triggersOk_passedEdge (h : s.TriggersOk) : (execPassedEdge s).Leads State.TriggersOk := by
  rw [execPassedEdge]
  split
  · exact leads_next h
  · split
    · exact leads_next (triggersOk_takeEdge (triggersOk_countChoice h _) _)
    · exact leads_next h

/-- FORMAT_ANNOUNCEMENT keeps the bounds (R104, R119). -/
theorem triggersOk_formatAnnouncement (h : s.TriggersOk) (format : Format) :
    (execFormatAnnouncement format s).Leads State.TriggersOk := by
  rw [execFormatAnnouncement]
  split
  · exact leads_next h
  · exact leads_next (triggersOk_followLink h _)

/-- FILL_DONE leaves the trigger lines (R123). -/
theorem triggersOk_fillDone (h : s.TriggersOk) : (execFillDone s).Leads State.TriggersOk := by
  rw [execFillDone]
  split
  · exact leads_next h.congr
  · exact leads_next h

/-- HOST_WRITE is held, or stops past the end of frame memory (R167). -/
theorem triggersOk_hostWrite (h : s.TriggersOk) (address : Nat) (data : List Byte) :
    (execHostWrite address data s).Leads State.TriggersOk := by
  rw [execHostWrite]
  split
  · exact leads_fault _
  · split
    · exact leads_next h
    · exact leads_next h.congr

/-- HOST_READ is held, or stops past the end of frame memory (R167). -/
theorem triggersOk_hostRead (h : s.TriggersOk) (address length : Nat) :
    (execHostRead address length s).Leads State.TriggersOk := by
  rw [execHostRead]
  split
  · exact leads_fault _
  · split
    · exact leads_next h
    · exact leads_next h.congr

/-- OUTPUT_FRAME_START keeps the bounds (R135). -/
theorem triggersOk_outputFrameStart (h : s.TriggersOk) (order : StartOrder) :
    (execOutputFrameStart order s).Leads State.TriggersOk := by
  rw [execOutputFrameStart]
  split
  · exact leads_next h
  · exact leads_next (triggersOk_issueIf h _ _ _)

/-- MISSING_START_DEADLINE keeps the bounds (R143). -/
theorem triggersOk_missingStartDeadline (h : s.TriggersOk) (order : StartOrder) :
    (execMissingStartDeadline order s).Leads State.TriggersOk := by
  rw [execMissingStartDeadline]
  split
  · exact leads_next h
  · exact leads_next (triggersOk_issueIf h.congr _ _ _)

/-- VALIDATION_DONE keeps the bounds, whether the profile is refused or the device enters RUNNING (R179, R180). -/
theorem triggersOk_validationDone (h : s.TriggersOk) (now : Nat) (pins : BitVec 4) :
    (execValidationDone now pins s).Leads State.TriggersOk := by
  rw [execValidationDone]
  split
  · rename_i hread
    have hs : s.device.state = .starting := by
      simp only [State.readsReturned, decide_eq_true_eq] at hread
      exact hread.1
    dsimp only
    split
    · exact leads_next (triggersOk_enterRunning now pins _ _ s)
    · exact leads_next (h.congr (hdevice := by simp [hs, refuseProfile]))
  · exact leads_next h

/-- LOSS_OF_LOCK keeps the bounds (R151). -/
theorem triggersOk_lossOfLock (h : s.TriggersOk) (p : Fin 6) : (execLossOfLock p s).Leads State.TriggersOk := by
  rw [execLossOfLock]
  split
  · exact leads_next (triggersOk_changePort h p _)
  · exact leads_next h

/-- TRAINING_DONE keeps the bounds (R152). -/
theorem triggersOk_trainingDone (h : s.TriggersOk) (p : Fin 6) (result : TrainingResult) :
    (execTrainingDone p result s).Leads State.TriggersOk := by
  rw [execTrainingDone]
  split
  · split
    · exact leads_next (triggersOk_changePort h p _)
    · exact leads_next (triggersOk_failAttempt h p)
  · exact leads_next h

/-- BURST_GRANT keeps the bounds (R168). -/
theorem triggersOk_burstGrant (h : s.TriggersOk) (size : Nat) : (execBurstGrant size s).Leads State.TriggersOk := by
  rw [execBurstGrant]
  split
  · exact leads_next h
  · exact leads_next (triggersOk_performBurst h.congr size _)

/-- RENDER_PIXEL leaves the trigger lines (R156). -/
theorem triggersOk_renderPixel (h : s.TriggersOk) (c : Fin 6) : (execRenderPixel c s).Leads State.TriggersOk := by
  rw [execRenderPixel]
  split
  · exact leads_next h.congr
  · exact leads_next h

/-- A pixel that falls due leaves the link states of the ports (R157). -/
theorem linkState_sendPixel (p : Fin 6) (s : State) (q : Fin 6) :
    ((sendPixel p s).ports.get q).state = (s.ports.get q).state := by
  rw [(sendPixel_keeps p s).1]
  split
  · rename_i hq
    rw [hq]
  · rfl

/-- PIXEL_DUE leaves the link states of the ports (R157). -/
theorem triggersOk_pixelDue (h : s.TriggersOk) (p : Fin 6) : (execPixelDue p s).Leads State.TriggersOk := by
  rw [execPixelDue]
  split
  · have sent : (sendPixel p s).TriggersOk := h.congr (hports := linkState_sendPixel p s)
    refine leads_next (sent.congr (hports := fun q => ?_))
    rw [ports_modifyPort]
    split
    · rename_i hq
      rw [hq]
    · rfl
  · exact leads_next h

end

/-- Every command keeps the trigger lines settled. -/
theorem triggersOk_exec {s : State} (h : s.TriggersOk) (i : Instr) : Result.Leads (exec i s) State.TriggersOk := by
  cases i with
  | start => exact leads_next (triggersOk_deliver h _)
  | stop => exact leads_next (triggersOk_deliver h _)
  | reset => exact leads_next (triggersOk_deliver h _)
  | areaBaseWrite w => exact leads_next (triggersOk_deliver h _)
  | noticeClear w => exact leads_next (triggersOk_deliver h _)
  | noticeEnableWrite w => exact leads_next (triggersOk_deliver h _)
  | registerWriteIgnored r w => exact leads_next (triggersOk_deliver h _)
  | powerOnReset found => exact leads_next ((triggersOk_deviceReset s).congr (t := powerOn found s)
      (by simp [powerOn]) (by simp [powerOn]) (by simp [powerOn]) (by simp [powerOn]) (by simp [powerOn]))
  | pciExpressLinkReset => exact leads_next (h.congr (t := linkReset s))
  | hostWrite address data => exact triggersOk_hostWrite h address data
  | hostRead address length => exact triggersOk_hostRead h address length
  | presenceChange format => exact leads_next (triggersOk_followLink h format)
  | formatAnnouncement format => exact triggersOk_formatAnnouncement h format
  | inputFrameStart time order => exact leads_next (triggersOk_issueIf h.congr _ _ _)
  | line pixels => exact leads_next (h.congr (t := changeCapture _ s))
  | fillDone => exact triggersOk_fillDone h
  | outputFrameStart order => exact triggersOk_outputFrameStart h order
  | missingStartDeadline order => exact triggersOk_missingStartDeadline h order
  | validationDone time pins => exact triggersOk_validationDone h time pins
  | checkDone => exact triggersOk_checkDone h
  | loadDone => exact triggersOk_loadDone h
  | passedEdge => exact triggersOk_passedEdge h
  | filteredLevelChange l => exact leads_next (triggersOk_filterChange h l)
  | holdOffExpiry l => exact leads_next (triggersOk_holdOffExpiry h l)
  | presenceRise p => exact leads_next (triggersOk_presenceRise h p)
  | presenceFall p => exact leads_next (triggersOk_presenceFall h p)
  | lossOfLock p => exact triggersOk_lossOfLock h p
  | trainingDone p result => exact triggersOk_trainingDone h p result
  | attemptTimerExpiry p => exact leads_next (triggersOk_attemptExpiry h p)
  | retryTimerExpiry p => exact leads_next (triggersOk_retryExpiry h p)
  | burstGrant size => exact triggersOk_burstGrant h size
  | renderPixel c => exact triggersOk_renderPixel h c
  | pixelDue p => exact triggersOk_pixelDue h p
  | sampleTick pins presence => exact leads_next (triggersOk_sampleTick h pins presence)

/-- Settles O59: the lines stay settled command by command, and the command taken from the queue stands beside them. -/
theorem triggersKept : Obligations.TriggersKept := by
  intro s t h hs
  rw [step] at hs
  split at hs
  · cases hs
    exact h
  · exact triggersOk_exec (s := s.setPending _) h.congr _ t hs

/-! ## SAMPLE_TICK (R102, R103, R108, R150, R152) -/

/-- A port works where it is not OFF (R150). -/
theorem LinkState.works_iff (k : LinkState) : k.works = true ↔ k ≠ .off := by
  cases k <;> simp [LinkState.works]

/-- The filtered presence of a port is about to change where the port works and its run count is 100 (R150). -/
theorem Port.presenceDue_iff (port : Port) : port.presenceDue = true ↔ port.state ≠ .off ∧ port.presenceRun = 100 := by
  rw [Port.presenceDue, Bool.and_eq_true, LinkState.works_iff, decide_eq_true_iff]
  rfl

/-- Nothing of a line is left from the tick before (R103, R108). -/
theorem settleLine_of_none_due {s : State} {l : Fin 4}
    (h : s.triggers.runMark = true → (s.triggers.lines.get l).levelDue = false ∧
      ((s.triggers.lines.get l).holdOffActive = true → (s.triggers.lines.get l).holdOffLeft ≠ 0)) :
    settleLine l s = s := by
  rw [settleLine, filterChange_of_not_due fun hm => (h hm).1]
  refine holdOffExpiry_of_not_expired fun hm he => ?_
  obtain ⟨hon, hleft⟩ := (Line.expired_iff _).mp he
  exact (h hm).2 hon hleft

/-- Nothing of a port is left from the tick before (R150, R152). -/
theorem settlePort_of_none_due {s : State} {p : Fin 6}
    (hpresence : (s.ports.get p).state ≠ .off → (s.ports.get p).presenceRun ≠ 100)
    (hattempt : (s.ports.get p).state = .training → (s.ports.get p).phase = some .attempt →
      (s.ports.get p).attemptTimer ≠ 0)
    (hretry : (s.ports.get p).state = .training → (s.ports.get p).phase = some .retryWait →
      (s.ports.get p).retryTimer ≠ 0) : settlePort p s = s := by
  have notDue : ¬ (s.ports.get p).presenceDue = true := fun hd =>
    have ⟨hworks, hrun⟩ := (Port.presenceDue_iff _).mp hd
    hpresence hworks hrun
  have rise : presenceRise p s = s := if_neg fun hc => notDue hc.1
  have fall : presenceFall p s = s := if_neg fun hc => notDue hc.1
  have attempt : attemptExpiry p s = s := if_neg fun ⟨hc, ht⟩ => by
    rw [Port.attempting, decide_eq_true_eq] at hc
    exact hattempt hc.1 hc.2 ht
  have retry : retryExpiry p s = s := if_neg fun ⟨hs, hp, ht⟩ => hretry hs hp ht
  rw [settlePort, rise, fall, attempt, retry]

/-- With nothing left from the tick before, nothing comes first (log 9). -/
theorem settleTick_of_none_due {s : State} (hlines : ∀ l, settleLine l s = s) (hports : ∀ p, settlePort p s = s) :
    settleTick s = s := by
  have lines : (allOf 4).foldl (fun t l => settleLine l t) s = s := List.foldl_fixed' hlines _
  have ports : (allOf 6).foldl (fun t p => settlePort p t) s = s := List.foldl_fixed' hports _
  rw [settleTick, lines, ports]
  exact joinMoment_of_le _ s (Nat.le_succ _)

/-- A sample equal to the filtered level (R103). -/
theorem Line.sample_of_eq {line : Line} {pin : Bool} (h : pin = line.filtered) :
    line.sample pin = { line with pin := pin, run := 0, levelDue := false } :=
  if_pos h

/-- A sample that differs, with filter length 0 (R103). -/
theorem Line.sample_of_unfiltered {line : Line} {pin : Bool} (h : pin ≠ line.filtered) (hf : line.setup.filter = 0) :
    line.sample pin = { line with pin := pin, levelDue := true } :=
  (if_neg h).trans (if_pos hf)

/-- A sample that differs, counted toward the filter length (R103). -/
theorem Line.sample_of_filtered {line : Line} {pin : Bool} (h : pin ≠ line.filtered) (hf : 0 < line.setup.filter) :
    line.sample pin =
      { line with
        pin := pin
        run := min (line.run + 1) 255
        levelDue := decide (line.setup.filter ≤ min (line.run + 1) 255) } :=
  (if_neg h).trans (if_neg (Nat.pos_iff_ne_zero.mp hf))

/-- A port's timers after a sample tick (R152). -/
theorem Port.tickTimers_eq (port : Port) :
    port.tickTimers =
      { port with
        attemptTimer :=
          if port.state = .training ∧ port.phase = some .attempt then port.attemptTimer - 1 else port.attemptTimer
        retryTimer :=
          if port.state = .training ∧ port.phase = some .retryWait then port.retryTimer - 1 else port.retryTimer } := by
  rw [Port.tickTimers]
  split
  · rename_i ht
    split
    · rename_i hp
      rw [if_pos ⟨ht, hp⟩, if_neg (by simp [hp])]
    · rename_i hp
      rw [if_neg (by simp [hp]), if_pos ⟨ht, hp⟩]
    · rename_i hp
      rw [if_neg (by simp [hp]), if_neg (by simp [hp])]
  · rename_i hn
    rw [if_neg fun hc => hn hc.1, if_neg fun hc => hn hc.1]

/-- A port's presence filter after a sample tick: an OFF port takes no sample (R150). -/
theorem Port.sample_eq (port : Port) (line : Bool) :
    port.sample line =
      { port with
        presenceLine := if port.state = .off then port.presenceLine else line
        presenceRun :=
          if port.state = .off then port.presenceRun
          else if line = port.presence then 0 else min (port.presenceRun + 1) 100 } := by
  rw [Port.sample]
  split
  · rename_i hw
    rw [if_neg ((LinkState.works_iff _).mp hw), if_neg ((LinkState.works_iff _).mp hw)]
    rfl
  · rename_i hw
    have hoff : port.state = .off := by simpa using mt (LinkState.works_iff _).mpr hw
    rw [if_pos hoff, if_pos hoff]

/-- The ports after a sample tick (R150, R152). -/
theorem ports_tickPorts (presence : BitVec 6) (s : State) (p : Fin 6) :
    (tickPorts presence s).ports.get p = ((s.ports.get p).sample (presence.getLsbD p.val)).tickTimers := by
  rw [tickPorts, State.setPorts_ports, Arr.get_build]

/-- While the run mark is clear a sample tick leaves the lines (R112). -/
theorem tickLines_of_clear {s : State} (hm : s.triggers.runMark = false) (pins : BitVec 4) : tickLines pins s = s :=
  if_neg (by simp [hm])

/-- A sample tick changes the lines and the ports alone. -/
theorem sameBut_tick (pins : BitVec 4) (presence : BitVec 6) (s : State) :
    State.sameBut [.triggers, .ports] s (tickPorts presence (tickLines pins s)) := by
  intro p hp
  cases p <;> simp [Part.same] at hp ⊢

/-- Marking a moment changes the Trigger Unit alone (R110). -/
theorem sameBut_joinMoment (n : Nat) (s : State) : State.sameBut [.triggers] s (joinMoment n s) := by
  intro p hp
  cases p <;> simp [Part.same] at hp ⊢

/-- The count of choices after a sample tick. -/
theorem choices_tickLines (pins : BitVec 4) (s : State) : (tickLines pins s).triggers.choices = s.triggers.choices := by
  rw [tickLines]
  split <;> rfl

/-- A line after a sample tick, while the run mark stands (R102, R103, R108). -/
theorem lines_tick {s : State} (hm : s.triggers.runMark = true) (pins : BitVec 4) (presence : BitVec 6) (l : Fin 4) :
    (tickPorts presence (tickLines pins s)).triggers.lines.get l =
      { s.triggers.lines.get l with
        pin := pins.getLsbD l.val
        run := ((s.triggers.lines.get l).sample (pins.getLsbD l.val)).run
        levelDue := ((s.triggers.lines.get l).sample (pins.getLsbD l.val)).levelDue
        holdOffLeft := if (s.triggers.lines.get l).holdOffActive then (s.triggers.lines.get l).holdOffLeft - 1
          else (s.triggers.lines.get l).holdOffLeft } := by
  have kept : (tickPorts presence (tickLines pins s)).triggers = (tickLines pins s).triggers := by simp
  rw [kept, lines_tickLines hm, Line.sample_tickHoldOff_keeps]

/-- Settles O35: what is settled first, then each line and each port by itself. -/
theorem sampleTick : Obligations.SampleTick := by
  refine ⟨fun s l => ⟨filterChange l s, rfl, rfl⟩,
    fun s p => ⟨presenceRise p s, presenceFall p (presenceRise p s),
      attemptExpiry p (presenceFall p (presenceRise p s)), rfl, rfl, rfl, rfl⟩,
    fun s n => ⟨sameBut_joinMoment n s, rfl⟩, fun s pins presence => ?_⟩
  intro u
  refine ⟨rfl, fun hlines hports => ?_, tickPorts presence (tickLines pins u), rfl, sameBut_tick pins presence u,
    by simp, by simp, by simpa using choices_tickLines pins u, fun hm => ?_, fun hm l => ?line, fun p => ?port⟩
  · exact settleTick_of_none_due (fun l => settleLine_of_none_due fun hm => hlines hm l)
      fun p => settlePort_of_none_due (hports p).1 (hports p).2.1 (hports p).2.2
  · rw [tickLines_of_clear hm]
    simp
  case line =>
    clear_value u
    intro old new sample
    have hnew : new = _ := lines_tick hm pins presence l
    rw [hnew]
    refine ⟨rfl, rfl, rfl, rfl, rfl, rfl, fun he => ?_, fun hne hf => ?_, fun hne hf => ?_, rfl⟩
    · rw [Line.sample_of_eq he]
      exact ⟨rfl, rfl⟩
    · rw [Line.sample_of_unfiltered hne hf]
      exact ⟨rfl, rfl⟩
    · rw [Line.sample_of_filtered hne hf]
      exact ⟨rfl, decide_eq_true_iff⟩
  case port =>
    clear_value u
    intro old sample
    have kept : (tickLines pins u).ports = u.ports := by simp
    rw [ports_tickPorts, kept, Port.tickTimers_eq, Port.sample_eq]

/-! ## The snapshot (R114, R130, R164, R188, R189, R193) -/

/-- The body of the status page. -/
def pageBody (s : State) : List (Nat × Nat × Nat) := bodyFirst s ++ bodySecond s

/-- What stands at some place of the body's first part stands in the body. -/
theorem mem_pageBody_of_first {s : State} {f : Nat × Nat × Nat} (n : Nat) (h : (bodyFirst s)[n]? = some f) :
    f ∈ pageBody s :=
  List.mem_append_left _ (List.mem_of_getElem? h)

/-- A field of a line stands in the body (R114). -/
theorem mem_pageBody_of_line {s : State} {l : Fin 4} {f : Nat × Nat × Nat} (h : f ∈ lineStatus s l) :
    f ∈ pageBody s := by
  have : f ∈ (allOf 4).flatMap (lineStatus s) := List.mem_flatMap.mpr ⟨l, mem_allOf l, h⟩
  simp [pageBody, bodyFirst, this]

/-- A field of the fault record stands in the body (R190). -/
theorem mem_pageBody_of_fault {s : State} {f : Nat × Nat × Nat} (h : f ∈ faultStatus s.status.fault) :
    f ∈ pageBody s := by
  simp [pageBody, bodyFirst, h]

/-- A field of a channel status record stands in the body (R164). -/
theorem mem_pageBody_of_channel {s : State} {c : Fin 6} {f : Nat × Nat × Nat} (h : f ∈ channelStatus s c) :
    f ∈ pageBody s :=
  List.mem_append_right _ (List.mem_flatMap.mpr ⟨c, mem_allOf c, h⟩)

/-- The offsets of a channel status record do not depend on whether the channel is enabled (R164). -/
theorem offsets_channelStatus (s : State) (c : Fin 6) :
    (channelStatus s c).map Prod.fst = [0, 1, 2, 3, 4, 5, 8, 12].map (0x200 + 16 * c.val + ·) := by
  rw [channelStatus]
  split <;> rfl

/-- A line's levels, each at its offset (R114). -/
theorem lineStatus_eq (s : State) (l : Fin 4) :
    lineStatus s l =
      [(0x130 + 4 * l.val, 1, bit (s.triggers.lines.get l).filtered),
       (0x131 + 4 * l.val, 1, bit (s.triggers.lines.get l).combined),
       (0x132 + 4 * l.val, 1, bit (s.triggers.lines.get l).delivered),
       (0x133 + 4 * l.val, 1, bit (s.triggers.lines.get l).holdOffActive)] := by
  simp only [lineStatus, Nat.add_right_comm]

/-- The offsets of a line's levels (R114). -/
theorem offsets_lineStatus (s : State) (l : Fin 4) :
    (lineStatus s l).map Prod.fst = [0, 1, 2, 3].map (0x130 + 4 * l.val + ·) := rfl

/-- The offsets of the body's fields, in order (R193). -/
def bodyOffsets : List Nat :=
  [0x100, 0x101, 0x102, 0x104, 0x108, 0x10C, 0x110, 0x111, 0x114, 0x118, 0x11C, 0x120, 0x124, 0x128, 0x12C] ++
    (allOf 4).flatMap (fun l => [0, 1, 2, 3].map (0x130 + 4 * l.val + ·)) ++
    [0x140, 0x141, 0x142, 0x144, 0x146, 0x148, 0x150] ++
    (allOf 6).flatMap (fun c => [0, 1, 2, 3, 4, 5, 8, 12].map (0x200 + 16 * c.val + ·))

/-- The body's fields stand at these offsets, whatever the state. -/
theorem offsets_pageBody (s : State) : (pageBody s).map Prod.fst = bodyOffsets := by
  have lines : ((allOf 4).flatMap (lineStatus s)).map Prod.fst =
      (allOf 4).flatMap (fun l => [0, 1, 2, 3].map (0x130 + 4 * l.val + ·)) := by
    simp only [List.map_flatMap, offsets_lineStatus]
  have channels : ((allOf 6).flatMap (channelStatus s)).map Prod.fst =
      (allOf 6).flatMap (fun c => [0, 1, 2, 3, 4, 5, 8, 12].map (0x200 + 16 * c.val + ·)) := by
    simp only [List.map_flatMap, offsets_channelStatus]
  rw [pageBody, bodyFirst, bodySecond, bodyOffsets, List.map_append, List.map_append, List.map_append, lines, channels]
  rfl

/-- The READING slot is none where no slot is READING (R130). -/
theorem readingSlot_eq_none {c : Capture} (h : ∀ n, (c.slots.get n).state ≠ .reading) : c.readingSlot = none :=
  lowest_eq_none.mpr fun n => decide_eq_false (h n)

/-- The READING slot is the one that alone is READING (R130). -/
theorem readingSlot_eq_some {c : Capture} {n : Fin 3} (hn : (c.slots.get n).state = .reading)
    (h : ∀ m, (c.slots.get m).state = .reading → m = n) : c.readingSlot = some n :=
  lowest_unique (decide_eq_true hn) fun m hm => h m (of_decide_eq_true hm)

/-- The sequence number shown where no slot is READING (R130). -/
theorem readingSequence_of_none {c : Capture} (h : c.readingSlot = none) : c.readingSequence = 0 := by
  simp only [Capture.readingSequence, h]

/-- The sequence number shown of the READING slot (R130). -/
theorem readingSequence_of_some {c : Capture} {n : Fin 3} (h : c.readingSlot = some n) :
    c.readingSequence = (c.slots.get n).sequence := by
  simp only [Capture.readingSequence, h]

/-- The READING slot's number and sequence number, as the body shows them (R130). -/
theorem mem_pageBody_reading (s : State) :
    (0x110, 1, match s.capture.readingSlot with | none => 15 | some n => n.val) ∈ pageBody s ∧
      (0x114, 4, s.capture.readingSequence.toNat) ∈ pageBody s :=
  ⟨mem_pageBody_of_first 6 rfl, mem_pageBody_of_first 8 rfl⟩

/-- The record of a channel that is enabled on a port (R164). -/
theorem channelStatus_of_port {s : State} {c p : Fin 6} (h : s.layout.portOf c = some p) :
    channelStatus s c =
      [(0x200 + 16 * c.val, 1, p.val), (0x200 + 16 * c.val + 1, 1, (s.ports.get p).state.code),
       (0x200 + 16 * c.val + 2, 1, (s.ports.get p).failures), (0x200 + 16 * c.val + 3, 1, bit (s.ports.get p).presence),
       (0x200 + 16 * c.val + 4, 1, (s.channels.get c).mode.code),
       (0x200 + 16 * c.val + 5, 1, bit (s.channels.get c).quarantined),
       (0x200 + 16 * c.val + 8, 4, (s.channels.get c).lateLast),
       (0x200 + 16 * c.val + 12, 4, (s.channels.get c).clipLast)] := by
  simp only [channelStatus, h]

/-- The record of a channel that is not enabled (R164). -/
theorem channelStatus_of_none {s : State} {c : Fin 6} (h : s.layout.portOf c = none) :
    channelStatus s c =
      [(0x200 + 16 * c.val, 1, 15), (0x200 + 16 * c.val + 1, 1, 0), (0x200 + 16 * c.val + 2, 1, 0),
       (0x200 + 16 * c.val + 3, 1, 0), (0x200 + 16 * c.val + 4, 1, 0), (0x200 + 16 * c.val + 5, 1, 0),
       (0x200 + 16 * c.val + 8, 4, 0), (0x200 + 16 * c.val + 12, 4, 0)] := by
  simp only [channelStatus, h, LinkState.code, Mode.code]

/-- A snapshot changes the status writer alone (R188). -/
theorem sameBut_snapshot (s : State) : State.sameBut [.status] s (snapshot s) := by
  intro p hp
  cases p <;> simp [Part.same] at hp ⊢

/-- The begin or end record: the frame number and the count (R189). -/
theorem fieldCells_snapshotMark (page offset : Nat) (s : State) :
    fieldCells page (snapshotMark s offset) =
      placed (page + offset) (leBytes 8 s.timing.frame.toNat) ++
        placed (page + offset + 8) (leBytes 4 s.status.snapshotCount.toNat) := by
  simp [fieldCells, snapshotMark, Nat.add_assoc]

/-- Settles O13: the bursts, the requests in order, and each field of the body at its offset. -/
theorem snapshot_spec : Obligations.Snapshot := by
  refine ⟨fun cells => ⟨flatten_burstsOf cells, run_burstsOf cells⟩, fun s => ?_⟩
  intro body bit
  have hbody : body = pageBody s := rfl
  clear_value body
  subst hbody
  refine ⟨snapshot_none s, fun area harea => ?requests, fun base => rfl, ?order, ?length, ?device, fun hnone => ?free,
    fun n hn hone => ?reading, fun l => ?line, ?fault, fun c => ⟨fun p hp => ?channel, fun hnone => ?disabled⟩⟩
  case requests =>
    have hstatus := snapshot_status s area harea
    refine ⟨sameBut_snapshot s, by rw [hstatus], by rw [hstatus], ?_⟩
    rw [hstatus]
    dsimp only
    rw [snapshotRequests, fieldCells_snapshotMark, fieldCells_snapshotMark]
    rfl
  case order =>
    rw [offsets_pageBody]
    decide
  case length =>
    rw [← List.length_map (f := Prod.fst), offsets_pageBody]
    rfl
  case device =>
    simp only [List.forall_mem_cons]
    exact ⟨mem_pageBody_of_first 0 rfl, mem_pageBody_of_first 1 rfl, mem_pageBody_of_first 2 rfl,
      mem_pageBody_of_first 3 rfl, mem_pageBody_of_first 4 rfl, mem_pageBody_of_first 5 rfl,
      mem_pageBody_of_first 7 rfl, mem_pageBody_of_first 9 rfl, mem_pageBody_of_first 10 rfl,
      mem_pageBody_of_first 11 rfl, mem_pageBody_of_first 12 rfl, mem_pageBody_of_first 13 rfl,
      mem_pageBody_of_first 14 rfl, List.forall_mem_nil _⟩
  case free =>
    have hslot := readingSlot_eq_none hnone
    simpa only [hslot, readingSequence_of_none hslot, BitVec.ofNat_eq_ofNat, BitVec.toNat_zero] using mem_pageBody_reading s
  case reading =>
    have hslot := readingSlot_eq_some hn hone
    simpa only [hslot, readingSequence_of_some hslot] using mem_pageBody_reading s
  case line => exact fun f hf => mem_pageBody_of_line (l := l) (lineStatus_eq s l ▸ hf)
  case fault => exact fun f hf => mem_pageBody_of_fault hf
  case channel => exact fun f hf => mem_pageBody_of_channel (channelStatus_of_port hp ▸ hf)
  case disabled => exact fun f hf => mem_pageBody_of_channel (channelStatus_of_none hnone ▸ hf)

end Sys2Proof.Machine

namespace Sys2Proof.Machine

-- As above: one proof is checked after another.
set_option Elab.async false

/-! ## The slots, the FIFO and the counts stay in their bounds (R118, R122, R149, R156, R170, R176, R190) -/

/-- The slots are in order and the line FIFO has its room (R118, R122). -/
structure Capture.InBounds (c : Capture) : Prop where
  slots : c.SlotsOk
  fifo : c.FifoOk

/-- The stop count within a limit while STOPPING, and 0 in every other device state: the limit is 1 between two events (R176),
and 2 from the count to the end of a STOP at one output frame start (R182). -/
structure Device.StopWithin (limit : Nat) (d : Device) : Prop where
  stopping : d.state = .stopping → d.stopCount ≤ limit
  other : d.state ≠ .stopping → d.stopCount = 0

/-- Between two events the limit is 1 (R176). -/
theorem Device.stopWithin_one_iff (d : Device) : d.StopWithin 1 ↔ d.StopOk := by
  rw [Device.StopOk]
  split
  · rename_i hs
    exact ⟨fun h => h.stopping hs, fun h => ⟨fun _ => h, fun hn => absurd hs hn⟩⟩
  · rename_i hs
    exact ⟨fun h => h.other hs, fun h => ⟨fun hn => absurd hn hs, fun _ => h⟩⟩

/-- A device that has counted no start is within every limit. -/
theorem Device.stopWithin_of_count {d : Device} {n : Nat} (h : d.stopCount = 0) : d.StopWithin n :=
  ⟨fun _ => h.le.trans (Nat.zero_le n), fun _ => h⟩

/-- The slots, the FIFO and every count stand in their bounds, the stop count in the limit given. -/
structure State.BoundsOk (limit : Nat) (s : State) : Prop where
  capture : s.capture.InBounds
  fault : s.status.fault.Ok
  stop : s.device.StopWithin limit
  share : s.arbiter.ShareOk
  ports : ∀ p, (s.ports.get p).CountsOk
  windows : ∀ c, (s.channels.get c).WindowOk

/-- A state whose parts keep their bounds keeps all of them; a part that stays as it is needs no argument. -/
theorem State.BoundsOk.mono {n : Nat} {s t : State} (h : s.BoundsOk n)
    (hcapture : s.capture.InBounds → t.capture.InBounds := by simp)
    (hfault : s.status.fault.Ok → t.status.fault.Ok := by simp)
    (hstop : s.device.StopWithin n → t.device.StopWithin n := by simp)
    (hshare : s.arbiter.ShareOk → t.arbiter.ShareOk := by simp)
    (hports : (∀ p, (s.ports.get p).CountsOk) → ∀ p, (t.ports.get p).CountsOk := by simp)
    (hwindows : (∀ c, (s.channels.get c).WindowOk) → ∀ c, (t.channels.get c).WindowOk := by simp) : t.BoundsOk n :=
  ⟨hcapture h.capture, hfault h.fault, hstop h.stop, hshare h.share, hports h.ports, hwindows h.windows⟩

/-- A port that keeps its four counts keeps them in their ranges. -/
theorem Port.CountsOk.keep {p q : Port} (h : p.CountsOk) (hrun : q.presenceRun = p.presenceRun := by rfl)
    (hfailures : q.failures = p.failures := by rfl) (hattempt : q.attemptTimer = p.attemptTimer := by rfl)
    (hretry : q.retryTimer = p.retryTimer := by rfl) : q.CountsOk :=
  ⟨hrun ▸ h.presenceRun, hfailures ▸ h.failures, hattempt ▸ h.attemptTimer, hretry ▸ h.retryTimer⟩

/-- A port changed within its bounds. -/
theorem countsOk_modify {ports : Arr 6 Port} (h : ∀ p, (ports.get p).CountsOk) (p : Fin 6) (f : Port → Port)
    (hf : (f (ports.get p)).CountsOk) (q : Fin 6) : ((ports.modify p f).get q).CountsOk := by
  rw [Arr.get_modify]
  split
  · rename_i hq
    exact hq ▸ hf
  · exact h q

/-- A channel changed within its bounds. -/
theorem windowOk_modifyChannel {s : State} (h : ∀ d, (s.channels.get d).WindowOk) (c : Fin 6) (f : Channel → Channel)
    (hf : (f (s.channels.get c)).WindowOk) (d : Fin 6) : ((modifyChannel c f s).channels.get d).WindowOk := by
  rw [channels_modifyChannel]
  split
  · exact hf
  · exact h d

/-! ### The Capture Unit's own events (R119 to R123) -/

/-- A fill start leaves the FIFO. -/
theorem Capture.fifo_startFill (c : Capture) : c.startFill.fifo = c.fifo := by
  rw [Capture.startFill]
  split <;> rfl

/-- An input frame start puts nothing into the FIFO (R120). -/
theorem Capture.fifoOk_onInput {c : Capture} (h : c.FifoOk) : c.onInput.FifoOk := by
  rw [Capture.onInput]
  split
  · exact h
  · exact h
  · rwa [Capture.FifoOk, Capture.fifo_startFill]
  · split
    · exact (List.length_filter_le _ _).trans h
    · split
      · rw [Capture.FifoOk, Capture.fifo_startFill]
        exact Nat.zero_le _
      · exact h

/-- An input frame start keeps the bounds. -/
theorem Capture.inBounds_onInput {c : Capture} (h : c.InBounds) : c.onInput.InBounds :=
  ⟨Capture.slots_onInput c h.slots, Capture.fifoOk_onInput h.fifo⟩

/-- A link change puts nothing into the FIFO (R119). -/
theorem Capture.fifoOk_follow {c : Capture} (h : c.FifoOk) (link : Option Format) : (c.follow link).FifoOk := by
  simp only [Capture.follow]
  split
  · split
    · exact h
    · exact Nat.zero_le _
  all_goals exact h

/-- A link change keeps the bounds. -/
theorem Capture.inBounds_follow {c : Capture} (h : c.InBounds) (link : Option Format) : (c.follow link).InBounds :=
  ⟨Capture.slots_follow c link h.slots, Capture.fifoOk_follow h.fifo link⟩

/-- The tagged pixels of a line are as many as its pixels. -/
theorem Capture.length_tagged (slot : Option (Fin 3)) (row column : Nat) (pixels : List Pixel) :
    (Capture.tagged slot row column pixels).length = pixels.length := by
  induction pixels generalizing column with
  | nil => rfl
  | cons p rest ih => simp [Capture.tagged, ih]

/-- A line enters the FIFO only where it finds room (R122). -/
theorem Capture.fifoOk_takeLine (c : Capture) (slot : Option (Fin 3)) (row : Nat) (pixels : List Pixel)
    {count : Capture → Capture} (hc : ∀ d, (count d).fifo = d.fifo) : (c.takeLine slot row pixels count).FifoOk := by
  simp only [Capture.takeLine]
  split
  · exact Nat.zero_le _
  · split
    · exact Nat.zero_le _
    · rename_i hroom _
      rw [Capture.FifoOk, hc, List.length_append, Capture.length_tagged]
      exact Nat.le_of_not_lt hroom

/-- A line keeps the bounds (R121, R122). -/
theorem Capture.inBounds_onLine {c : Capture} (h : c.InBounds) (pixels : List Pixel) : (c.onLine pixels).InBounds := by
  refine ⟨Capture.slots_onLine c pixels h.slots, ?_⟩
  rw [Capture.onLine]
  split
  case h_4 =>
    split <;> split
    · exact Capture.fifoOk_takeLine c _ _ _ fun _ => rfl
    · exact h.fifo
    · exact Capture.fifoOk_takeLine c _ _ _ fun _ => rfl
    · exact h.fifo
  all_goals exact h.fifo

/-- Dropping an older COMPLETE slot leaves the FIFO (R123). -/
theorem Capture.fifo_dropComplete (c : Capture) : c.dropComplete.fifo = c.fifo := by
  rw [Capture.dropComplete]
  split <;> rfl

/-- Fill-done keeps the bounds: it tags the pixels that wait (R123). -/
theorem Capture.inBounds_fillDone {c : Capture} (h : c.InBounds) : c.fillDone.InBounds := by
  refine ⟨Capture.slots_fillDone c h.slots, ?_⟩
  have completed : (c.dropComplete.moveSlots .filling .complete).fifo = c.fifo := Capture.fifo_dropComplete c
  simp only [Capture.fillDone]
  split
  · rw [Capture.FifoOk, Capture.startPending, List.length_map, Capture.fifo_startFill, completed]
    exact h.fifo
  · rw [Capture.FifoOk, completed]
    exact h.fifo

/-- The handoff keeps the bounds (R124). -/
theorem Capture.inBounds_handoff {c : Capture} (h : c.InBounds) (freeze : Bool) : (c.handoff freeze).InBounds := by
  refine ⟨Capture.slots_handoff c freeze h.slots, ?_⟩
  rw [Capture.handoff]
  split
  · exact h.fifo
  · split <;> exact h.fifo

/-- Enabling capture empties the FIFO (R131). -/
theorem Capture.inBounds_enable (c : Capture) (hd : Header) (link : Option Format) : (c.enable hd link).InBounds :=
  ⟨Capture.slots_enable c hd link, Nat.zero_le _⟩

/-- Disabling capture empties the FIFO (R132). -/
theorem Capture.inBounds_disable (c : Capture) : c.disable.InBounds :=
  ⟨Capture.slots_disable c, Nat.zero_le _⟩

/-- Pixels that leave the FIFO make room (R122). -/
theorem Capture.inBounds_drop {c : Capture} (h : c.InBounds) (n : Nat) :
    ({ c with fifo := c.fifo.drop n } : Capture).InBounds := by
  refine ⟨⟨h.slots.one, h.slots.filling⟩, ?_⟩
  rw [Capture.FifoOk, List.length_drop]
  exact (Nat.sub_le _ _).trans h.fifo

/-- A source link event keeps the bounds where its effect on the Capture Unit does. -/
theorem boundsOk_changeCapture {n : Nat} {s : State} (h : s.BoundsOk n) {f : Capture → Capture}
    (hf : s.capture.InBounds → (f s.capture).InBounds) : (changeCapture f s).BoundsOk n := by
  rw [changeCapture]
  split
  · exact h.mono (hcapture := by simpa using hf)
  · exact h

/-- A link change keeps the bounds (R115, R119). -/
theorem boundsOk_followLink {n : Nat} {s : State} (h : s.BoundsOk n) (link : Option Format) :
    (followLink link s).BoundsOk n := by
  have announced : (s.setSource ⟨link⟩).BoundsOk n := h.mono
  have followed := boundsOk_changeCapture announced (f := fun c => c.follow link) fun hc => Capture.inBounds_follow hc link
  exact followed.mono (t := settleAlt s _)

/-! ### Faults and bursts (R171 to R173, R190 to R192) -/

/-- The sequence number after another is not 0 (R190). -/
theorem FaultRecord.nextSequence_ne_zero (n : BitVec 16) : FaultRecord.nextSequence n ≠ 0 := by
  rw [FaultRecord.nextSequence]
  split
  · decide
  · bv_omega

/-- The seen mark of a kind is the one thing that seeing it sets (R191). -/
theorem FaultRecord.see_keeps (f : FaultRecord) (kind : FaultKind) :
    (f.see kind).occupied = f.occupied ∧ (f.see kind).sequence = f.sequence ∧ (f.see kind).kind = f.kind ∧
      (f.see kind).further = f.further := by
  cases kind <;> exact ⟨rfl, rfl, rfl, rfl⟩

/-- An occupied record with a kind and a sequence number is in order, whatever it has seen. -/
theorem FaultRecord.ok_see {f : FaultRecord} (ho : f.occupied = true) (hs : f.sequence ≠ 0) (hk : f.kind.isSome)
    (hf : f.further ≤ Config.furtherFaultLimit) (kind : FaultKind) : (f.see kind).Ok := by
  obtain ⟨occupied, sequence, held, further⟩ := f.see_keeps kind
  refine ⟨fun _ => ⟨?_, ?_⟩, fun hn => ?_, ?_⟩
  · rwa [sequence]
  · rwa [held]
  · rw [occupied, ho] at hn
    cases hn
  · rwa [further]

/-- A fault keeps the record in order, whether it fills it or joins it (R190, R191). -/
theorem FaultRecord.ok_take {f : FaultRecord} (h : f.Ok) (kind : FaultKind) (detail : Word) (frame : BitVec 64) :
    (f.take kind detail frame).Ok := by
  rw [FaultRecord.take]
  split
  · rename_i ho
    obtain ⟨hs, hk⟩ := h.filled ho
    have counted : min (f.further + 1) Config.furtherFaultLimit ≤ Config.furtherFaultLimit := Nat.min_le_right _ _
    simp only [FaultRecord.join]
    split
    · refine FaultRecord.ok_see ?_ ?_ ?_ ?_ kind
      exacts [ho, hs, rfl, counted]
    · refine FaultRecord.ok_see ?_ ?_ ?_ ?_ kind
      exacts [ho, hs, hk, counted]
  · exact FaultRecord.ok_see rfl (FaultRecord.nextSequence_ne_zero _) rfl (Nat.zero_le _) kind

/-- An acknowledgement keeps the record in order: it empties it or leaves it (R192). -/
theorem FaultRecord.ok_acknowledge {f : FaultRecord} (h : f.Ok) (ack : Nat) : (f.acknowledge ack).Ok := by
  rw [FaultRecord.acknowledge]
  split
  · exact ⟨nofun, fun _ => rfl, Nat.zero_le _⟩
  · exact h

section
variable {n : Nat} {s : State} (h : s.BoundsOk n)
include h

/-- A notice stands beside the bounds. -/
theorem boundsOk_raiseNotice (g : NoticeGroup) : (raiseNotice g s).BoundsOk n := h.mono

/-- A notice raised where a condition holds stands beside the bounds. -/
theorem boundsOk_raiseIf (r : Bool) (g : NoticeGroup) : (raiseIf r g s).BoundsOk n := h.mono

/-- Another Capture Unit within its bounds keeps them. -/
theorem boundsOk_setCapture {c : Capture} (hc : s.capture.InBounds → c.InBounds) : (s.setCapture c).BoundsOk n :=
  h.mono (hcapture := hc)

/-- Other ports within their bounds keep them. -/
theorem boundsOk_setPorts {ports : Arr 6 Port}
    (hp : (∀ p, (s.ports.get p).CountsOk) → ∀ p, (ports.get p).CountsOk) : (s.setPorts ports).BoundsOk n :=
  h.mono (hports := hp)

/-- A fault keeps the bounds (R190, R191). -/
theorem boundsOk_takeFault (kind : FaultKind) (detail : Word) : (takeFault kind detail s).BoundsOk n :=
  h.mono (hfault := fun hf => by
    rw [takeFault_status]
    exact FaultRecord.ok_take hf _ _ _)

/-- A burst read keeps the bounds (R171, R172). -/
theorem boundsOk_afterRead (address length : Nat) : (afterRead address length s).BoundsOk n := by
  have counted (k : Nat) : (s.setMemory (s.memory.countCorrected k)).BoundsOk n := h.mono
  simp only [afterRead]
  split
  · exact counted _
  · exact boundsOk_takeFault (counted _) _ _

/-- A read of the control area keeps the bounds (R168). -/
theorem boundsOk_afterControlRead (offset length : Nat) : (afterControlRead offset length s).BoundsOk n :=
  boundsOk_afterRead h _ _

/-- A burst write keeps the bounds (R173). -/
theorem boundsOk_afterWrite (cells : List (Nat × Byte)) : (afterWrite cells s).BoundsOk n :=
  foldl_preserves (State.BoundsOk n) _ (fun _ _ ht => boundsOk_takeFault ht _ _) _ _ h.mono

/-- The fault acknowledgement of an output frame start keeps the bounds (R192). -/
theorem boundsOk_acknowledgeFault : (acknowledgeFault s).BoundsOk n := by
  have read := boundsOk_afterControlRead h faultAckOffset 2
  exact read.mono (t := acknowledgeFault s) (hfault := fun hf => FaultRecord.ok_acknowledge hf _)

/-! ### The read-ahead windows and the pixels (R156 to R158) -/

/-- A change of a channel keeps the bounds where its window keeps its own. -/
theorem boundsOk_modifyChannel (c : Fin 6) (f : Channel → Channel)
    (hf : (s.channels.get c).WindowOk → (f (s.channels.get c)).WindowOk := by exact id) :
    (modifyChannel c f s).BoundsOk n :=
  h.mono (hwindows := fun hw => windowOk_modifyChannel hw c f (hf (hw c)))

/-- A request keeps the windows within 130 rows (R156). -/
theorem boundsOk_requestRow (c : Fin 6) : (requestRow c s).BoundsOk n :=
  boundsOk_modifyChannel h c _ (length_request_le s c _)

/-- Rows that leave a window make room (R156). -/
theorem boundsOk_pruneWindow (c : Fin 6) : (pruneWindow c s).BoundsOk n :=
  boundsOk_modifyChannel h c _ (List.length_filter_le _ _).trans


/-- A pixel passed keeps the bounds (R156). -/
theorem boundsOk_passPixel (c : Fin 6) (clipped : Bool) : (passPixel c clipped s).BoundsOk n := by
  rw [passPixel]
  exact boundsOk_requestRow (boundsOk_pruneWindow (boundsOk_modifyChannel h c _) c) c

/-- A quarantine keeps the bounds (R161). -/
theorem boundsOk_enterQuarantine (c : Fin 6) : (enterQuarantine c s).BoundsOk n := by
  rw [enterQuarantine]
  exact boundsOk_takeFault (boundsOk_raiseNotice (boundsOk_modifyChannel h c _) .channel) _ _

/-- A pixel computed keeps the bounds (R16, R161). -/
theorem boundsOk_computePixel (c : Fin 6) : (computePixel c s).BoundsOk n := by
  simp only [computePixel]
  split
  · exact boundsOk_passPixel (boundsOk_enterQuarantine h c) c _
  · exact boundsOk_passPixel h c _

/-- A change of a port that leaves its counts keeps the bounds. -/
theorem boundsOk_modifyPort (p : Fin 6) {f : Port → Port}
    (hf : (s.ports.get p).CountsOk → (f (s.ports.get p)).CountsOk) :
    (modifyPort p f s).BoundsOk n :=
  h.mono (hports := fun hp => countsOk_modify hp p f (hf (hp p)))

/-- A port that sends codes keeps its counts (R157). -/
theorem boundsOk_sendCodes (p : Fin 6) (codes : Codes) : (sendCodes p codes s).BoundsOk n :=
  boundsOk_modifyPort h p fun hp => hp.keep

/-- A late pixel keeps the bounds (R158, R159). -/
theorem boundsOk_latePixel (p c : Fin 6) : (latePixel p c s).BoundsOk n := by
  simp only [latePixel]
  exact boundsOk_sendCodes (boundsOk_passPixel (boundsOk_modifyChannel h c _) c _) p _

/-- A pixel that falls due keeps the bounds, whether ready, computed now or late (R157, R158). -/
theorem boundsOk_duePixel (p c : Fin 6) : (duePixel p c s).BoundsOk n := by
  rw [duePixel]
  split
  · exact boundsOk_sendCodes (boundsOk_modifyChannel h c _) p _
  · split
    · exact boundsOk_sendCodes (boundsOk_computePixel h c) p _
    · exact boundsOk_latePixel h p c

/-- What a port sends keeps the bounds (R157). -/
theorem boundsOk_sendPixel (p : Fin 6) : (sendPixel p s).BoundsOk n := by
  rw [sendPixel]
  split
  · split
    · exact boundsOk_sendCodes h p _
    · split
      · exact boundsOk_duePixel h p _
      · exact boundsOk_sendCodes h p _
  · exact h

end

/-! ### The ports (R149 to R152) -/

/-- A training attempt begins with its timer at 500 (R152). -/
theorem Port.countsOk_startAttempt {port : Port} (h : port.CountsOk) : port.startAttempt.CountsOk :=
  ⟨h.presenceRun, h.failures, le_rfl, h.retryTimer⟩

/-- A port that goes DOWN keeps its counts, with the failures given (R151). -/
theorem Port.countsOk_goDown {port : Port} (h : port.CountsOk) {n : Nat} (hn : n ≤ 3) : (port.goDown n).CountsOk :=
  ⟨h.presenceRun, hn, h.attemptTimer, h.retryTimer⟩

/-- A filtered presence taken clears the run count (R150). -/
theorem Port.countsOk_takePresence {port : Port} (h : port.CountsOk) (presence : Bool) :
    (port.takePresence presence).CountsOk :=
  ⟨Nat.zero_le _, h.failures, h.attemptTimer, h.retryTimer⟩

/-- An attempt that succeeds clears the failures (R152). -/
theorem Port.countsOk_succeed {port : Port} (h : port.CountsOk) : port.succeed.CountsOk :=
  ⟨h.presenceRun, Nat.zero_le _, h.attemptTimer, h.retryTimer⟩

/-- A failed attempt counts to 3 at most, and a retry waits 1000 ticks (R152). -/
theorem Port.countsOk_fail {port : Port} (h : port.CountsOk) : port.fail.CountsOk := by
  rw [Port.fail]
  split
  · rename_i hlt
    exact ⟨h.presenceRun, hlt.le, h.attemptTimer, le_rfl⟩
  · exact Port.countsOk_goDown h le_rfl

/-- A presence rise keeps a port's counts (R151). -/
theorem Port.countsOk_rise {port : Port} (h : port.CountsOk) : port.rise.CountsOk := by
  rw [Port.rise]
  split
  · exact Port.countsOk_startAttempt (Port.countsOk_takePresence h true)
  all_goals exact Port.countsOk_takePresence h true

/-- A sample keeps the run count within 100 (R150). -/
theorem Port.countsOk_sample {port : Port} (h : port.CountsOk) (line : Bool) : (port.sample line).CountsOk := by
  rw [Port.sample]
  split
  · refine ⟨?_, h.failures, h.attemptTimer, h.retryTimer⟩
    dsimp only
    split
    · exact Nat.zero_le _
    · exact Nat.min_le_right _ _
  · exact h

/-- The training timers count down (R152). -/
theorem Port.countsOk_tickTimers {port : Port} (h : port.CountsOk) : port.tickTimers.CountsOk := by
  rw [Port.tickTimers]
  split
  · split
    · exact ⟨h.presenceRun, h.failures, (Nat.sub_le _ _).trans h.attemptTimer, h.retryTimer⟩
    · exact ⟨h.presenceRun, h.failures, h.attemptTimer, (Nat.sub_le _ _).trans h.retryTimer⟩
    · exact h
  · exact h

section
variable {n : Nat} {s : State} (h : s.BoundsOk n)
include h

/-- A change of a port keeps the bounds where it keeps the port's counts; a channel that stops has an empty window (R151,
R156). -/
theorem boundsOk_changePort (p : Fin 6) {f : Port → Port}
    (hf : (s.ports.get p).CountsOk → (f (s.ports.get p)).CountsOk) :
    (changePort p f s).BoundsOk n := by
  refine h.mono (hports := fun hp => ?_) (hwindows := fun hw c => ?_)
  · rw [changePort_ports]
    exact countsOk_modify hp p f (hf (hp p))
  · rw [channels_changePort]
    split
    · rw [channels_stopChannelOf]
      split
      · exact Nat.zero_le _
      · exact hw c
    · exact hw c

/-- A failed attempt keeps the bounds (R152, R153). -/
theorem boundsOk_failAttempt (p : Fin 6) : (failAttempt p s).BoundsOk n := by
  have failed := boundsOk_changePort h p (f := Port.fail) Port.countsOk_fail
  rw [failAttempt]
  split
  · exact boundsOk_takeFault failed _ _
  · exact failed

/-- A presence rise keeps the bounds (R151). -/
theorem boundsOk_presenceRise (p : Fin 6) : (presenceRise p s).BoundsOk n := by
  rw [presenceRise]
  split
  · exact boundsOk_changePort h p Port.countsOk_rise
  · exact h

/-- A presence fall keeps the bounds (R151). -/
theorem boundsOk_presenceFall (p : Fin 6) : (presenceFall p s).BoundsOk n := by
  rw [presenceFall]
  split
  · exact boundsOk_changePort h p fun hp => Port.countsOk_goDown (Port.countsOk_takePresence hp false) (Nat.zero_le _)
  · exact h

/-- The expiry of an attempt timer keeps the bounds (R152). -/
theorem boundsOk_attemptExpiry (p : Fin 6) : (attemptExpiry p s).BoundsOk n := by
  rw [attemptExpiry]
  split
  · exact boundsOk_failAttempt h p
  · exact h

/-- The expiry of a retry timer keeps the bounds (R152). -/
theorem boundsOk_retryExpiry (p : Fin 6) : (retryExpiry p s).BoundsOk n := by
  rw [retryExpiry]
  split
  · exact boundsOk_changePort h p Port.countsOk_startAttempt
  · exact h

/-- Edges marked as of one moment stand beside the bounds (R110). -/
theorem boundsOk_joinMoment (k : Nat) : (joinMoment k s).BoundsOk n := h.mono

/-- The events of the tick before keep the bounds (log 9). -/
theorem boundsOk_settleTick : (settleTick s).BoundsOk n := by
  have lines : ((allOf 4).foldl (fun t l => settleLine l t) s).BoundsOk n :=
    foldl_preserves (State.BoundsOk n) _ (fun _ _ ht => ht.mono) _ _ h
  refine boundsOk_joinMoment (foldl_preserves (State.BoundsOk n) _ (fun t p ht => ?_) _ _ lines) _
  exact boundsOk_retryExpiry (boundsOk_attemptExpiry (boundsOk_presenceFall (boundsOk_presenceRise ht p) p) p) p

/-- A sample tick keeps the bounds (R102, R150, R152). -/
theorem boundsOk_sampleTick (pins : BitVec 4) (presence : BitVec 6) :
    (tickPorts presence (tickLines pins (settleTick s))).BoundsOk n := by
  refine (boundsOk_settleTick h).mono (hports := fun hp p => ?_)
  simp only [tickPorts, tickLines_frame, State.setPorts_ports, Arr.get_build]
  exact Port.countsOk_tickTimers (Port.countsOk_sample (hp p) _)

/-! ### The output frame start (R77, R124, R156, R160, R182) -/

/-- The exchange of the banks leaves the windows (R78, R162). -/
theorem boundsOk_exchange : (exchange s).BoundsOk n :=
  h.mono (hwindows := fun hw c => by
    rw [channels_exchange]
    exact hw c)

/-- The scan of the bays reads their records and changes nothing that is bounded (R79). -/
theorem boundsOk_scan : (scan s).BoundsOk n := by
  have read : ((allOf 8).foldl (fun t b => afterControlRead (bayOffset b) bayRecordBytes t) s).BoundsOk n :=
    foldl_preserves (State.BoundsOk n) (fun t b => afterControlRead (bayOffset b) bayRecordBytes t)
      (fun _ _ ht => boundsOk_afterControlRead ht _ _) _ _ h
  have dealt : ∀ {t : State} (r : Fin 8 → BayRecord), t.BoundsOk n →
      ((allOf 8).foldl (fun t b => scanBay b (r b) t) t).BoundsOk n :=
    fun r ht => foldl_preserves (State.BoundsOk n) (fun t b => scanBay b (r b) t) (fun _ _ hu => hu.mono) _ _ ht
  have rewritten : ∀ {t : State}, t.BoundsOk n → ((allOf 8).foldl (fun t b => rewriteHeld b t) t).BoundsOk n :=
    fun ht => foldl_preserves (State.BoundsOk n) (fun t b => rewriteHeld b t) (fun _ _ hu => hu.mono) _ _ ht
  rw [scan]
  exact rewritten (dealt _ read)

/-- The start of a check stands beside the bounds (R83). -/
theorem boundsOk_startCheck : (startCheck s).BoundsOk n := h.mono

/-- The Bay Controller's part keeps the bounds (R77). -/
theorem boundsOk_baysPart : (baysPart s).BoundsOk n := by
  rw [baysPart]
  split
  · exact boundsOk_startCheck (boundsOk_scan (boundsOk_exchange h))
  · exact h

/-- The trigger latch reads the setup records and changes nothing that is bounded (R100, R101). -/
theorem boundsOk_latchSetups : (latchSetups s).BoundsOk n := by
  have read : ((allOf 4).foldl (fun t l => afterControlRead (setupOffset l) setupBytes t) s).BoundsOk n :=
    foldl_preserves (State.BoundsOk n) (fun t l => afterControlRead (setupOffset l) setupBytes t)
      (fun _ _ ht => boundsOk_afterControlRead ht _ _) _ _ h
  have latched : ∀ {t : State} (r : Fin 4 → LineSetup), t.BoundsOk n →
      ((allOf 4).foldl (fun t l => latchLine l (r l) t) t).BoundsOk n :=
    fun r ht => foldl_preserves (State.BoundsOk n) (fun t l => latchLine l (r l) t) (fun _ _ hu => hu.mono) _ _ ht
  simp only [latchSetups]
  split
  · exact boundsOk_joinMoment (latched _ read) _
  · exact h

/-- The trigger latch and the passed edges keep the bounds (R100, R110). -/
theorem boundsOk_triggersPart (early : List (Fin 4)) : (triggersPart early s).BoundsOk n := by
  have taken : ∀ {t : State}, t.BoundsOk n → (early.foldl (fun t l => takeEdge l t) t).BoundsOk n :=
    fun ht => foldl_preserves (State.BoundsOk n) (fun t l => takeEdge l t) (fun _ _ hu => hu.mono) _ _ ht
  rw [triggersPart]
  exact taken (boundsOk_latchSetups h)

/-- The Capture Unit's response keeps the bounds (R124). -/
theorem boundsOk_captureAtFrameStart : (captureAtFrameStart s).BoundsOk n := by
  simp only [captureAtFrameStart]
  split
  · exact boundsOk_setCapture (boundsOk_afterControlRead h _ _) fun hc => Capture.inBounds_handoff hc _
  · exact h

/-- A channel's response keeps the bounds: its window is emptied (R156, R160). -/
theorem boundsOk_channelAtFrameStart (c : Fin 6) : (channelAtFrameStart c s).BoundsOk n := by
  have closed : (closeCounts c s).BoundsOk n := by
    rw [closeCounts]
    exact boundsOk_raiseIf (boundsOk_modifyChannel h c Channel.close) _ _
  have latched : (latchControls c (closeCounts c s)).BoundsOk n := by
    rw [latchControls]
    split
    · exact boundsOk_modifyChannel (boundsOk_afterControlRead closed _ _) c _
    · exact closed
  rw [channelAtFrameStart]
  exact boundsOk_modifyChannel latched c _ fun _ => Nat.zero_le _

/-- The channels' response keeps the bounds (R156, R157). -/
theorem boundsOk_channelsAtFrameStart : (channelsAtFrameStart s).BoundsOk n := by
  have begun : (framesBegun s).BoundsOk n := by
    rw [framesBegun]
    exact foldl_preserves (State.BoundsOk n) _ (fun _ c ht => boundsOk_channelAtFrameStart ht c) _ _ h
  have asked : (requestRows (framesBegun s)).BoundsOk n := begun.mono (hwindows := fun hw c => by
    rw [channels_requestRows]
    exact length_request_le _ c _ (hw c))
  simp only [channelsAtFrameStart]
  refine boundsOk_setPorts asked fun hp p => ?_
  rw [Arr.get_map]
  exact (hp p).keep

end

/-- The Capture Unit after the end of a STOP (R132). -/
theorem endStop_capture (s : State) : (endStop s).capture = s.capture.disable := by
  simp [endStop]

/-- The device after the end of a STOP: IDLE, with no start counted (R182). -/
theorem stopWithin_endStop (n : Nat) (s : State) : (endStop s).device.StopWithin n :=
  Device.stopWithin_of_count (by simp [endStop])

/-- The end of a STOP brings the stop count back to 0, whatever it was (R132, R155, R182). -/
theorem boundsOk_endStop {n : Nat} {s : State} (h : s.BoundsOk n) (m : Nat) : (endStop s).BoundsOk m where
  capture := endStop_capture s ▸ Capture.inBounds_disable s.capture
  fault := by simpa using h.fault
  stop := stopWithin_endStop m s
  share := by simpa using h.share
  ports p := by
    rw [endStop_ports, Arr.get_map]
    exact (h.ports p).keep
  windows c := by
    rw [endStop_channels]
    exact h.windows c

/-- The limit of the stop count after a start is counted: the start that ends a STOP is the second (R182). -/
def stopLimit (ending : Bool) : Nat := if ending then 2 else 1

/-- A start counted while STOPPING (R182). -/
theorem boundsOk_countStop {s : State} (h : s.BoundsOk 1) : (countStop s).BoundsOk (stopLimit s.ending) := by
  refine ⟨by simpa using h.capture, by simpa using h.fault, ⟨fun hs => ?_, fun hs => ?_⟩, by simpa using h.share,
    by simpa using h.ports, by simpa using h.windows⟩
  · replace hs : s.device.state = .stopping := by simpa using hs
    have within := h.stop.stopping hs
    simp only [countStop, hs, if_true, State.setDevice_device, State.ending, stopLimit, true_and, decide_eq_true_eq]
    split <;> omega
  · replace hs : s.device.state ≠ .stopping := by simpa using hs
    rw [countStop, if_neg hs]
    exact h.stop.other hs

/-- The blocks' responses bring the stop count back to 1 at most: the second start of a STOP ends it (R182). -/
theorem boundsOk_blocksAtFrameStart {s : State} {ending : Bool} (h : s.BoundsOk (stopLimit ending)) (early : List (Fin 4)) :
    (blocksAtFrameStart ending early s).BoundsOk 1 := by
  have dealt := boundsOk_baysPart (boundsOk_triggersPart h early)
  cases ending with
  | true => exact boundsOk_endStop (boundsOk_channelsAtFrameStart dealt) 1
  | false => exact boundsOk_channelsAtFrameStart (boundsOk_captureAtFrameStart dealt)

section
variable {s : State} (h : s.BoundsOk 1)
include h

/-- An output frame start keeps the bounds (R135). -/
theorem boundsOk_issueFrameStart (now : Nat) (order : StartOrder) : (issueFrameStart now order s).BoundsOk 1 := by
  have timed : (setTimingNoticed (s.timing.startAt now) s).BoundsOk 1 := h.mono
  have counted : (countStop (setTimingNoticed (s.timing.startAt now) s)).BoundsOk (stopLimit s.ending) := by
    simpa [State.ending] using boundsOk_countStop timed
  have snapped : ∀ {u : State}, u.BoundsOk 1 → (snapshot u).BoundsOk 1 := fun hu => hu.mono
  simp only [issueFrameStart]
  split
  · exact snapped (boundsOk_blocksAtFrameStart (boundsOk_acknowledgeFault counted) _)
  · exact snapped (boundsOk_acknowledgeFault (boundsOk_blocksAtFrameStart counted _))

/-- An output frame start where one is due keeps the bounds. -/
theorem boundsOk_issueIf (due : Bool) (now : Nat) (order : StartOrder) : (issueIf due now order s).BoundsOk 1 := by
  rw [issueIf]
  split
  · exact boundsOk_issueFrameStart h now order
  · exact h

end

/-! ### Grants (R169, R170) -/

/-- A grant keeps the share counter within 2^k: a fetcher raises it only below (R169, R170). -/
theorem Arbiter.shareOk_grantTo {a : Arbiter} (ha : a.ShareOk) (r : Requester) : (a.grantTo r).ShareOk := by
  cases r with
  | fetcher c =>
    simp only [Arbiter.ShareOk, Arbiter.grantTo, Arbiter.shareFull, decide_eq_true_eq] at ha ⊢
    split <;> omega
  | editionReader => exact Nat.zero_le _
  | captureWriter => exact ha
  | hostLink => exact ha
  | statusWriter => exact ha

/-! ### START, STOP and the resets (R177 to R185) -/

/-- A device reset puts every count at its reset value (R183). -/
theorem boundsOk_deviceReset (s : State) : (deviceReset s).BoundsOk 1 where
  capture := ⟨slotsOk_resetCapture, Nat.zero_le _⟩
  fault := emptyFault_ok
  stop := Device.stopWithin_of_count rfl
  share := Nat.zero_le _
  ports p := by
    rw [deviceReset, clearedPorts, Arr.get_map]
    exact countsOk_resetPort _ _
  windows c := by
    rw [deviceReset, Arr.get_replicate]
    exact Nat.zero_le _

/-- Power-on reset puts every count at its reset value (R184). -/
theorem boundsOk_powerOn (found : FoundMemory) (s : State) : (powerOn found s).BoundsOk 1 :=
  (boundsOk_deviceReset s).mono (t := powerOn found s) id id id id id id

section
variable {s : State} (h : s.BoundsOk 1)
include h

/-- The registers and the accesses held stand beside the bounds. -/
theorem boundsOk_setLink (v : LinkEndpoint) : (s.setLink v).BoundsOk 1 := h.mono

/-- A START taken while IDLE leaves the stop count at 0 (R177). -/
theorem boundsOk_takeStart : (takeStart s).BoundsOk 1 := by
  rw [takeStart]
  split
  · rename_i hi
    have zero : s.device.stopCount = 0 := h.stop.other (by simp [hi])
    split
    · exact h.mono (hstop := fun _ => Device.stopWithin_of_count zero)
    · exact h.mono (hstop := fun _ => Device.stopWithin_of_count (by simpa using zero))
  · exact h

/-- Entry to STOPPING begins with no start counted (R181). -/
theorem boundsOk_enterStopping : (enterStopping s).BoundsOk 1 := by
  have zero : (enterStopping s).device.stopCount = 0 := by simp [enterStopping]
  exact h.mono (hstop := fun _ => Device.stopWithin_of_count zero)

/-- A STOP leaves or sets the stop count at 0 (R179, R181). -/
theorem boundsOk_takeStop : (takeStop s).BoundsOk 1 := by
  rw [takeStop]
  split
  case h_2 hs =>
    have zero : s.device.stopCount = 0 := h.stop.other (by simp [hs])
    exact h.mono (hstop := fun _ => Device.stopWithin_of_count (by simpa using zero))
  case h_3 => exact boundsOk_enterStopping h
  all_goals exact h

/-- A register access keeps the bounds (R185). -/
theorem boundsOk_performRegister (a : RegisterAccess) : (performRegister a s).BoundsOk 1 := by
  cases a with
  | start => exact boundsOk_takeStart h
  | stop => exact boundsOk_takeStop h
  | reset => exact boundsOk_deviceReset s
  | areaBase w =>
    simp only [performRegister]
    split
    · exact boundsOk_setLink h _
    · exact h
  | notice w => exact boundsOk_setLink h _
  | noticeEnable w => exact boundsOk_setLink h _
  | ignored => exact h

/-- An access that the link delivers keeps the bounds (R185). -/
theorem boundsOk_deliver (a : RegisterAccess) : (deliver a s).BoundsOk 1 := by
  rw [deliver]
  split
  · exact boundsOk_performRegister h a
  · exact boundsOk_setLink h _

/-- Entry to RUNNING keeps the bounds: capture is enabled with an empty FIFO, the ports enter DOWN with their counts at 0, and
the share counter is 0 (R131, R155, R170, R180). -/
theorem boundsOk_enterRunning (hs : s.device.state ≠ .stopping) (now : Nat) (pins : BitVec 4) (hd : Header)
    (returned : List (StartBlock × List Byte)) : (enterRunning now pins hd returned s).BoundsOk 1 where
  capture := by
    have enabled : (enterRunning now pins hd returned s).capture =
        s.capture.enable hd s.source.announcement := by simp [enterRunning]
    exact enabled ▸ Capture.inBounds_enable _ _ _
  fault := by simpa using h.fault
  stop := Device.stopWithin_of_count (by simpa using h.stop.other hs)
  share := by simp [enterRunning, latchProfile, Arbiter.ShareOk]
  ports p := by
    simp only [enterRunning, snapshot_frame, raiseNotice_frame, setTimingNoticed_frame, State.setDevice_ports,
      initialiseLines_frame, State.setCapture_ports, startPorts, State.setPorts_ports, Arr.get_build]
    split
    · exact ⟨Nat.zero_le _, Nat.zero_le _, Nat.zero_le _, Nat.zero_le _⟩
    · simpa using h.ports p
  windows := by simpa using h.windows

/-! ### Bursts (R122, R156, R167) -/

/-- Performing the register accesses delivered next keeps the bounds (R185). -/
theorem boundsOk_drain (q : List LinkAccess) : (drain q s).BoundsOk 1 := by
  induction q generalizing s with
  | nil => exact boundsOk_setLink h _
  | cons a q ih =>
    cases a with
    | register a => exact ih (boundsOk_performRegister (boundsOk_setLink h _) a)
    | write address data => exact boundsOk_setLink h _
    | read address length got => exact boundsOk_setLink h _

/-- The host link's burst keeps the bounds (R167, R185). -/
theorem boundsOk_hostBurst : (hostBurst s).BoundsOk 1 := by
  rw [hostBurst]
  split
  · exact h
  · exact h
  · simp only [hostWriteBurst]
    have written := boundsOk_afterWrite h
    split
    · exact boundsOk_drain (written _) _
    · exact boundsOk_setLink (written _) _
  · simp only [hostReadBurst]
    have read := boundsOk_afterRead h
    split
    · exact boundsOk_drain (boundsOk_setLink (read _ _) _) _
    · exact boundsOk_setLink (read _ _) _

/-- The capture writer's burst keeps the bounds: pixels leave the FIFO (R122). -/
theorem boundsOk_captureBurst (size : Nat) : (captureBurst size s).BoundsOk 1 := by
  rw [captureBurst]
  split
  · exact h
  · rename_i p rest hfifo
    split
    · exact h
    · refine boundsOk_afterWrite (boundsOk_setCapture h fun hc => ?_) _
      rw [← hfifo]
      exact Capture.inBounds_drop hc _

/-- A channel fetcher's burst keeps the bounds: the window holds the rows it held, and at most one more (R156). -/
theorem boundsOk_fetchBurst (size : Nat) (c : Fin 6) : (fetchBurst size c s).BoundsOk 1 := by
  rw [fetchBurst]
  split
  · refine boundsOk_afterRead (boundsOk_requestRow (boundsOk_modifyChannel h c _ fun hw => ?_) c) _ _
    rwa [Channel.WindowOk, storeRow, List.length_map]
  · exact h

/-- The edition reader's burst keeps the bounds (R70). -/
theorem boundsOk_editionBurst (size : Nat) : (editionBurst size s).BoundsOk 1 := by
  have walked : ∀ {u : State} (v : EditionReader) (writes : List BankWrite), u.BoundsOk 1 →
      (applyWrites writes (u.setReader v)).BoundsOk 1 := fun v writes hu => hu.mono
  rw [editionBurst]
  split
  · exact h
  · split
    · exact h
    · split
      · exact h
      · exact walked _ _ (boundsOk_afterRead h _ _)

/-- The status writer's burst keeps the bounds (R168). -/
theorem boundsOk_statusBurst : (statusBurst s).BoundsOk 1 := by
  have taken : ∀ rest, (s.setStatus { s.status with queue := rest }).BoundsOk 1 := fun rest => h.mono (hfault := id)
  have kept : ∀ {u : State} block bytes wanted, u.BoundsOk 1 → (takeReturn block bytes wanted u).BoundsOk 1 := by
    intro u block bytes wanted hu
    rw [takeReturn]
    split
    · exact hu.mono (hstop := fun hd => ⟨hd.stopping, hd.other⟩)
    · exact hu
  rw [statusBurst]
  split
  · exact h
  · exact boundsOk_afterWrite (taken _) _
  · exact kept _ _ _ (boundsOk_afterRead (taken _) _ _)

/-- A granted burst keeps the bounds (R168). -/
theorem boundsOk_performBurst (size : Nat) (r : Requester) : (performBurst size r s).BoundsOk 1 := by
  cases r with
  | captureWriter => exact boundsOk_captureBurst h size
  | fetcher c => exact boundsOk_fetchBurst h size c
  | hostLink => exact boundsOk_hostBurst h
  | editionReader => exact boundsOk_editionBurst h size
  | statusWriter => exact boundsOk_statusBurst h

/-! ### Every command and every step -/

/-- CHECK_DONE leaves what is bounded (R83). -/
theorem boundsOk_checkDone : (execCheckDone s).Leads (State.BoundsOk 1) := by
  rw [execCheckDone]
  split
  · exact leads_next h
  · exact leads_next h.mono

/-- LOAD_DONE leaves what is bounded (R89). -/
theorem boundsOk_loadDone : (execLoadDone s).Leads (State.BoundsOk 1) := by
  rw [execLoadDone]
  split
  · exact leads_next h
  · exact leads_next h.mono

/-- PASSED_EDGE leaves what is bounded (R91). -/
theorem boundsOk_passedEdge : (execPassedEdge s).Leads (State.BoundsOk 1) := by
  rw [execPassedEdge]
  split
  · exact leads_next h
  · split
    · exact leads_next h.mono
    · exact leads_next h

/-- FORMAT_ANNOUNCEMENT keeps the bounds (R119). -/
theorem boundsOk_formatAnnouncement (format : Format) : (execFormatAnnouncement format s).Leads (State.BoundsOk 1) := by
  rw [execFormatAnnouncement]
  split
  · exact leads_next h
  · exact leads_next (boundsOk_followLink h _)

/-- FILL_DONE keeps the bounds (R123). -/
theorem boundsOk_fillDone : (execFillDone s).Leads (State.BoundsOk 1) := by
  rw [execFillDone]
  split
  · exact leads_next (boundsOk_changeCapture h Capture.inBounds_fillDone)
  · exact leads_next h

/-- HOST_WRITE is held, or stops past the end of frame memory (R167). -/
theorem boundsOk_hostWrite (address : Nat) (data : List Byte) :
    (execHostWrite address data s).Leads (State.BoundsOk 1) := by
  rw [execHostWrite]
  split
  · exact leads_fault _
  · split
    · exact leads_next h
    · exact leads_next (boundsOk_setLink h _)

/-- HOST_READ is held, or stops past the end of frame memory (R167). -/
theorem boundsOk_hostRead (address length : Nat) : (execHostRead address length s).Leads (State.BoundsOk 1) := by
  rw [execHostRead]
  split
  · exact leads_fault _
  · split
    · exact leads_next h
    · exact leads_next (boundsOk_setLink h _)

/-- INPUT_FRAME_START keeps the bounds (R120, R136). -/
theorem boundsOk_inputFrameStart (now : Nat) (order : StartOrder) :
    (execInputFrameStart now order s).Leads (State.BoundsOk 1) := by
  have captured := boundsOk_changeCapture h Capture.inBounds_onInput
  have timed : ∀ {u : State} (t : Timing), u.BoundsOk 1 → (setTimingNoticed t u).BoundsOk 1 := fun t hu => hu.mono
  exact leads_next (boundsOk_issueIf (timed _ captured) _ _ _)

/-- OUTPUT_FRAME_START keeps the bounds (R135). -/
theorem boundsOk_outputFrameStart (order : StartOrder) : (execOutputFrameStart order s).Leads (State.BoundsOk 1) := by
  rw [execOutputFrameStart]
  split
  · exact leads_next h
  · exact leads_next (boundsOk_issueIf h _ _ _)

/-- MISSING_START_DEADLINE keeps the bounds (R143). -/
theorem boundsOk_missingStartDeadline (order : StartOrder) :
    (execMissingStartDeadline order s).Leads (State.BoundsOk 1) := by
  rw [execMissingStartDeadline]
  split
  · exact leads_next h
  · exact leads_next (boundsOk_issueIf h.mono _ _ _)

/-- VALIDATION_DONE keeps the bounds, whether the profile is refused or the device enters RUNNING (R179, R180). -/
theorem boundsOk_validationDone (now : Nat) (pins : BitVec 4) :
    (execValidationDone now pins s).Leads (State.BoundsOk 1) := by
  rw [execValidationDone]
  split
  · rename_i hread
    have hs : s.device.state ≠ .stopping := by
      simp only [State.readsReturned, decide_eq_true_eq] at hread
      simp [hread.1]
    dsimp only
    split
    · exact leads_next (boundsOk_enterRunning h hs now pins _ _)
    · exact leads_next (h.mono (hstop := fun hd => Device.stopWithin_of_count (by simpa using hd.other hs)))
  · exact leads_next h

/-- LOSS_OF_LOCK keeps the bounds (R151). -/
theorem boundsOk_lossOfLock (p : Fin 6) : (execLossOfLock p s).Leads (State.BoundsOk 1) := by
  rw [execLossOfLock]
  split
  · exact leads_next (boundsOk_changePort h p Port.countsOk_startAttempt)
  · exact leads_next h

/-- TRAINING_DONE keeps the bounds (R152). -/
theorem boundsOk_trainingDone (p : Fin 6) (result : TrainingResult) :
    (execTrainingDone p result s).Leads (State.BoundsOk 1) := by
  rw [execTrainingDone]
  split
  · split
    · exact leads_next (boundsOk_changePort h p Port.countsOk_succeed)
    · exact leads_next (boundsOk_failAttempt h p)
  · exact leads_next h

/-- BURST_GRANT keeps the bounds (R168, R169). -/
theorem boundsOk_burstGrant (size : Nat) : (execBurstGrant size s).Leads (State.BoundsOk 1) := by
  have granted : ∀ r, (s.setArbiter (s.arbiter.grantTo r)).BoundsOk 1 :=
    fun r => h.mono (hshare := fun ha => Arbiter.shareOk_grantTo ha r)
  rw [execBurstGrant]
  split
  · exact leads_next h
  · exact leads_next (boundsOk_performBurst (granted _) size _)

/-- RENDER_PIXEL keeps the bounds (R156). -/
theorem boundsOk_renderPixel (c : Fin 6) : (execRenderPixel c s).Leads (State.BoundsOk 1) := by
  rw [execRenderPixel]
  split
  · exact leads_next (boundsOk_modifyChannel (boundsOk_computePixel h c) c _)
  · exact leads_next h

/-- PIXEL_DUE keeps the bounds (R157). -/
theorem boundsOk_pixelDue (p : Fin 6) : (execPixelDue p s).Leads (State.BoundsOk 1) := by
  rw [execPixelDue]
  split
  · exact leads_next (boundsOk_modifyPort (boundsOk_sendPixel h p) p fun hp => hp.keep)
  · exact leads_next h

end

/-- Every command keeps the bounds. -/
theorem boundsOk_exec {s : State} (h : s.BoundsOk 1) (i : Instr) : Result.Leads (exec i s) (State.BoundsOk 1) := by
  cases i with
  | start => exact leads_next (boundsOk_deliver h _)
  | stop => exact leads_next (boundsOk_deliver h _)
  | reset => exact leads_next (boundsOk_deliver h _)
  | areaBaseWrite w => exact leads_next (boundsOk_deliver h _)
  | noticeClear w => exact leads_next (boundsOk_deliver h _)
  | noticeEnableWrite w => exact leads_next (boundsOk_deliver h _)
  | registerWriteIgnored r w => exact leads_next (boundsOk_deliver h _)
  | powerOnReset found => exact leads_next (boundsOk_powerOn found s)
  | pciExpressLinkReset => exact leads_next (boundsOk_setLink h _)
  | hostWrite address data => exact boundsOk_hostWrite h address data
  | hostRead address length => exact boundsOk_hostRead h address length
  | presenceChange format => exact leads_next (boundsOk_followLink h format)
  | formatAnnouncement format => exact boundsOk_formatAnnouncement h format
  | inputFrameStart time order => exact boundsOk_inputFrameStart h time order
  | line pixels => exact leads_next (boundsOk_changeCapture h fun hc => Capture.inBounds_onLine hc pixels)
  | fillDone => exact boundsOk_fillDone h
  | outputFrameStart order => exact boundsOk_outputFrameStart h order
  | missingStartDeadline order => exact boundsOk_missingStartDeadline h order
  | validationDone time pins => exact boundsOk_validationDone h time pins
  | checkDone => exact boundsOk_checkDone h
  | loadDone => exact boundsOk_loadDone h
  | passedEdge => exact boundsOk_passedEdge h
  | filteredLevelChange l => exact leads_next (h.mono (t := filterChange l s))
  | holdOffExpiry l => exact leads_next (h.mono (t := holdOffExpiry l s))
  | presenceRise p => exact leads_next (boundsOk_presenceRise h p)
  | presenceFall p => exact leads_next (boundsOk_presenceFall h p)
  | lossOfLock p => exact boundsOk_lossOfLock h p
  | trainingDone p result => exact boundsOk_trainingDone h p result
  | attemptTimerExpiry p => exact leads_next (boundsOk_attemptExpiry h p)
  | retryTimerExpiry p => exact leads_next (boundsOk_retryExpiry h p)
  | burstGrant size => exact boundsOk_burstGrant h size
  | renderPixel c => exact boundsOk_renderPixel h c
  | pixelDue p => exact boundsOk_pixelDue h p
  | sampleTick pins presence => exact leads_next (boundsOk_sampleTick h pins presence)

/-- Settles O57: the bounds are kept command by command, and the command taken from the queue stands beside them. -/
theorem slotsAndCountsKept : Obligations.SlotsAndCountsKept := by
  intro s t counts hslots hcounts hs
  obtain ⟨hfifo, hfault, hstop, hshare, hports, hwindows⟩ := hcounts
  have h : s.BoundsOk 1 :=
    ⟨⟨hslots, hfifo⟩, hfault, (Device.stopWithin_one_iff _).mpr hstop, hshare, hports, hwindows⟩
  have ht : t.BoundsOk 1 := by
    rw [step] at hs
    split at hs
    · cases hs
      exact h
    · exact boundsOk_exec (s := s.setPending _) h.mono _ t hs
  exact ⟨ht.capture.slots, ht.capture.fifo, ht.fault, (Device.stopWithin_one_iff _).mp ht.stop, ht.share, ht.ports,
    ht.windows⟩

/-! ## The Capture Unit's events, with their SOURCE notice (R116, R129) -/

/-- A state that keeps the registers but NOTICE differs from the one before in NOTICE alone. -/
theorem link_of_notice {s t : State} (ha : t.link.areaBase = s.link.areaBase := by simp)
    (he : t.link.noticeEnable = s.link.noticeEnable := by simp) (hq : t.link.queue = s.link.queue := by simp)
    (hr : t.link.lastRead = s.link.lastRead := by simp) : t.link = { s.link with notice := t.link.notice } := by
  show t.link = ⟨s.link.areaBase, t.link.notice, s.link.noticeEnable, s.link.queue, s.link.lastRead⟩
  rw [← ha, ← he, ← hq, ← hr]

/-- The Capture Unit after a source link event: it takes the event while its enable mark is set (R116). -/
theorem capture_changeCapture (f : Capture → Capture) (s : State) :
    (changeCapture f s).capture = if s.capture.enabled then f s.capture else s.capture := by
  rw [changeCapture]
  split <;> simp

/-- A source link event raises SOURCE where its change says, and no other notice (R129). -/
theorem noticed_changeCapture (f : Capture → Capture) (s : State) (g : NoticeGroup) :
    (changeCapture f s).noticed g =
      (s.capture.notices (f s.capture) && decide (g = .source) || s.noticed g) := by
  rw [changeCapture]
  split
  · rw [noticed_raiseIf]
    exact congrArg _ (noticed_congr rfl g)
  · rename_i hoff
    simp [Capture.notices, hoff]

/-- A change that raises no notice leaves the registers. -/
theorem link_changeCapture {f : Capture → Capture} {s : State} (h : s.capture.notices (f s.capture) = false) :
    (changeCapture f s).link = s.link := by
  simp only [changeCapture, h]
  split <;> rfl

/-- An event that changes nothing in the Capture Unit leaves the whole state. -/
theorem changeCapture_of_same {f : Capture → Capture} {s : State} (h : f s.capture = s.capture) :
    changeCapture f s = s := by
  rw [changeCapture, h]
  split
  · have quiet : s.capture.notices s.capture = false := by simp [Capture.notices]
    rw [quiet]
    rfl
  · rfl

/-- A source link event changes the Capture Unit and the registers alone. -/
theorem sameBut_changeCapture (f : Capture → Capture) (s : State) :
    State.sameBut [.link, .capture] s (changeCapture f s) := by
  intro p hp
  cases p <;> simp [Part.same] at hp ⊢

/-- A change of the capture state is noticed while capture is enabled (R129). -/
theorem Capture.notices_of_state {c d : Capture} (he : c.enabled = true) (h : c.state ≠ d.state) : c.notices d = true := by
  simp [Capture.notices, he, h]

/-! ### Trigger lines raise no notice but TRIGGER (R104 to R109) -/

section
variable {g : NoticeGroup} (hg : g ≠ .trigger)
include hg

/-- A delivery raises TRIGGER at most (R109). -/
theorem noticed_deliverEdge (l : Fin 4) (s : State) : (deliverEdge l s).noticed g = s.noticed g := by
  simp only [deliverEdge]
  split
  · rw [passEdge, noticed_raiseNotice, decide_eq_false hg, Bool.false_or]
    exact noticed_congr rfl g
  · exact noticed_congr rfl g

/-- A recomputation raises TRIGGER at most (R106). -/
theorem noticed_recompute (l : Fin 4) (s : State) : (recompute l s).noticed g = s.noticed g := by
  simp only [recompute, deliveryTest]
  split
  · rw [noticed_deliverEdge hg]
    exact noticed_congr rfl g
  · exact noticed_congr rfl g

/-- Lines that settle raise TRIGGER at most (R104 to R106). -/
theorem noticed_settleAlt (before s : State) : (settleAlt before s).noticed g = s.noticed g := by
  simp only [settleAlt]
  split
  · refine (noticed_congr rfl g).trans (foldl_keeps (fun t : State => t.noticed g) _ (fun t l => ?_) _ _)
    split
    · exact noticed_recompute hg l t
    · rfl
  · rfl

end

/-! ## PRESENCE_CHANGE and FORMAT_ANNOUNCEMENT (R115, R119, R126, R129) -/

/-- The capture state as the link stands, in the terms of the announcement (R115, R131). -/
theorem Capture.stateOf_eq (c : Capture) (link : Option Format) :
    c.stateOf link = match link with
      | none => .noSignal
      | some f => if f.width = c.wc ∧ f.height = c.hc then .waiting else .mismatch := by
  cases link with
  | none => rfl
  | some f => simp only [Capture.stateOf, Capture.matchesFormat, decide_eq_true_eq]

/-- A fill goes on while the announcement matches (R119). -/
theorem Capture.follow_of_matching {c : Capture} {link : Option Format} (hs : c.state = .capturing)
    (h : c.stateOf link = .waiting) : c.follow link = c := by
  rw [Capture.follow, hs]
  exact if_pos h

/-- A fill is discarded and counted where CAPTURING is left (R119, R126). -/
theorem Capture.follow_of_lost {c : Capture} {link : Option Format} (hs : c.state = .capturing)
    (h : c.stateOf link ≠ .waiting) : c.follow link = { c.discardPartial with state := c.stateOf link } := by
  rw [Capture.follow, hs]
  exact if_neg h

/-- Outside CAPTURING the capture state follows the link (R119). -/
theorem Capture.follow_of_idle {c : Capture} {link : Option Format} (hs : c.state ≠ .capturing) :
    c.follow link = { c with state := c.stateOf link } := by
  rw [Capture.follow]
  split
  · rename_i hc
    exact absurd hc hs
  all_goals rfl

/-- A link change is noticed just where the capture state changes: a discard goes with such a change (R129). -/
theorem Capture.notices_follow {c : Capture} (he : c.enabled = true) (link : Option Format) :
    c.notices (c.follow link) = true ↔ (c.follow link).state ≠ c.state := by
  by_cases hs : c.state = .capturing
  · by_cases hm : c.stateOf link = .waiting
    · rw [Capture.follow_of_matching hs hm]
      simp [Capture.notices]
    · rw [Capture.follow_of_lost hs hm]
      have hne : c.stateOf link ≠ c.state := hs ▸ Capture.stateOf_ne c link
      exact iff_of_true (Capture.notices_of_state he hne.symm) hne
  · rw [Capture.follow_of_idle hs]
    simpa [Capture.notices, he] using ne_comm

/-- A link change leaves all but the registers, the source link, the Capture Unit and the trigger lines. -/
theorem sameBut_followLink (link : Option Format) (s : State) :
    State.sameBut [.link, .source, .capture, .triggers] s (followLink link s) := by
  intro p hp
  cases p <;> simp [Part.same, followLink] at hp ⊢

/-- The Capture Unit after a link change (R116, R119). -/
theorem capture_followLink (link : Option Format) (s : State) :
    (followLink link s).capture = if s.capture.enabled then s.capture.follow link else s.capture := by
  simp only [followLink, settleAlt_frame, capture_changeCapture]
  rfl

/-- A link change raises SOURCE where the Capture Unit notices it, and TRIGGER (R104, R129). -/
theorem noticed_followLink {g : NoticeGroup} (hg : g ≠ .trigger) (link : Option Format) (s : State) :
    (followLink link s).noticed g =
      (s.capture.notices (s.capture.follow link) && decide (g = .source) || s.noticed g) := by
  rw [followLink, noticed_settleAlt hg, noticed_changeCapture]
  exact congrArg _ (noticed_congr rfl g)

/-- Settles O21: the link is followed by `Capture.follow`, case by case of the capture state and the announcement. -/
theorem sourceLinkFollowed : Obligations.SourceLinkFollowed := by
  intro s link c seen
  have hseen : c.stateOf link = seen := Capture.stateOf_eq c link
  have hcapture := capture_followLink link s
  clear_value seen
  subst hseen
  refine ⟨followLink link s, rfl, fun f hf hsome => ?announcement, sameBut_followLink link s, ?source, ?link,
    fun g hg => ?notices, fun hoff => ?off, fun hon hs hm => ?kept, fun hon hs hm => ?lost, fun hon hs => ?idle⟩
  case announcement =>
    obtain ⟨old, hold⟩ := Option.isSome_iff_exists.mp hsome
    simp only [exec, execFormatAnnouncement, hold, hf]
  case source => simp [followLink]
  case link => exact link_of_notice
  case notices =>
    rw [noticed_followLink hg, hcapture, Bool.or_eq_true, Bool.and_eq_true, decide_eq_true_eq, or_comm, and_comm]
    refine or_congr Iff.rfl (and_congr Iff.rfl ?_)
    by_cases he : s.capture.enabled = true
    · rw [if_pos he, Capture.notices_follow he]
      exact (and_iff_right he).symm
    · simp [Capture.notices, he, c]
  case off => rw [hcapture, if_neg (by rw [hoff]; exact Bool.false_ne_true)]
  case kept => rw [hcapture, if_pos hon, Capture.follow_of_matching hs hm]
  case lost =>
    have hfollow := Capture.follow_of_lost hs hm
    refine ⟨by rw [hcapture, if_pos hon, hfollow]; rfl, ?_⟩
    have left : (c.follow link).state ≠ c.state := by
      rw [hfollow, hs]
      exact Capture.stateOf_ne c link
    rw [noticed_followLink (by decide), (Capture.notices_follow hon link).mpr left]
    rfl
  case idle => rw [hcapture, if_pos hon, Capture.follow_of_idle hs]

/-! ## An input frame start in the Capture Unit (R118, R120, R123, R126) -/

/-- A fill starts in the lowest-numbered FREE slot (R118, R120). -/
theorem Capture.startFill_of_free {c : Capture} {n : Fin 3} (h : c.slotIn .free = some n) :
    c.startFill =
      { c with
        slots := c.slots.set n ⟨.filling, c.fillSequence + 1⟩
        fillSequence := c.fillSequence + 1
        lines := 0
        state := .capturing } := by
  rw [Capture.startFill, h]

/-- A fill start leaves the count of discarded partial frames. -/
theorem Capture.discardedPartial_startFill (c : Capture) : c.startFill.discardedPartial = c.discardedPartial := by
  rw [Capture.startFill]
  split <;> rfl

/-- What a fill start gives the slot it takes, and what it leaves to the others (R118, R120). -/
theorem Capture.startFill_fills {c : Capture} {n : Fin 3} (h : c.slotIn .free = some n) :
    c.startFill.slots.get n = ⟨.filling, c.fillSequence + 1⟩ ∧ c.startFill.fillSequence = c.fillSequence + 1 ∧
      c.startFill.lines = 0 ∧ c.startFill.state = .capturing ∧ ∀ m, m ≠ n → c.startFill.slots.get m = c.slots.get m := by
  rw [Capture.startFill_of_free h]
  exact ⟨Arr.get_set_self _ _ _, rfl, rfl, rfl, fun m hm => Arr.get_set_ne _ _ _ _ hm⟩

/-- Settles O22: the branches of `Capture.onInput`, each by the state and the marks that choose it. -/
theorem inputFrameStartCapture : Obligations.InputFrameStartCapture := by
  intro c fills
  refine ⟨fun hs => ?closed, fun hs => ?waiting, fun hs hp hl => ?restart, fun hs hp hl => ?mark, fun hs hp => ?pending⟩
  case closed =>
    rcases hs with hs | hs <;> rw [Capture.onInput, hs]
  case waiting =>
    have hin : c.onInput = c.startFill := by rw [Capture.onInput, hs]
    rw [hin]
    exact ⟨fun n hn => Capture.startFill_fills hn, Capture.discardedPartial_startFill c, Capture.fifo_startFill c⟩
  case restart =>
    have hin : c.onInput = c.discardPartial.startFill := by
      simp only [Capture.onInput, hs, hp, hl, if_true, Bool.false_eq_true, if_false]
    rw [hin]
    refine ⟨fun n hn => ?_, Capture.discardedPartial_startFill _, Capture.fifo_startFill _⟩
    exact Capture.startFill_fills (c := c.discardPartial) hn
  case mark => simp only [Capture.onInput, hs, hp, Nat.not_lt.mpr hl, Bool.false_eq_true, if_false]
  case pending => simp only [Capture.onInput, hs, hp, if_true]

/-! ## LINE (R121, R122, R126) -/

/-- The pixels of a line that the fill takes, too many for the room left, overflow the FIFO (R122). -/
theorem Capture.takeLine_of_full {c : Capture} {slot : Option (Fin 3)} {row : Nat} {pixels : List Pixel}
    {count : Capture → Capture} (h : Config.fifoPixels < c.fifo.length + (pixels.take c.wc).length) :
    c.takeLine slot row pixels count = c.overflow :=
  if_pos h

/-- A line that ends short discards the fill (R121). -/
theorem Capture.takeLine_of_short {c : Capture} {slot : Option (Fin 3)} {row : Nat} {pixels : List Pixel}
    {count : Capture → Capture} (h : c.fifo.length + (pixels.take c.wc).length ≤ Config.fifoPixels)
    (hshort : pixels.length < c.wc) : c.takeLine slot row pixels count = c.shortLine := by
  have taken : (pixels.take c.wc).length < c.wc := by
    rw [List.length_take]
    omega
  rw [Capture.takeLine, if_neg (Nat.not_lt.mpr h), if_pos taken]

/-- A whole line that finds room enters the FIFO and is counted (R121, R122). -/
theorem Capture.takeLine_of_room {c : Capture} {slot : Option (Fin 3)} {row : Nat} {pixels : List Pixel}
    {count : Capture → Capture} (h : c.fifo.length + (pixels.take c.wc).length ≤ Config.fifoPixels)
    (hwhole : c.wc ≤ pixels.length) : c.takeLine slot row pixels count =
      count { c with fifo := c.fifo ++ Capture.tagged slot row 0 (pixels.take c.wc) } := by
  have taken : ¬ (pixels.take c.wc).length < c.wc := by
    rw [List.length_take]
    omega
  rw [Capture.takeLine, if_neg (Nat.not_lt.mpr h), if_neg taken]

/-- The row that a line fills: of the pending frame while a start is pending, else of the fill (R121, R123). -/
def Capture.nextLine (c : Capture) : Nat := if c.pendingStart then c.pendingLines else c.lines

/-- The slot that a line's pixels are tagged with: none while a start is pending (R121, R123). -/
def Capture.lineSlot (c : Capture) : Option (Fin 3) := if c.pendingStart then none else c.slotIn .filling

/-- One more line counted, of the pending frame or of the fill (R121, R123). -/
def Capture.countLine (pending : Bool) (c : Capture) : Capture :=
  if pending then { c with pendingLines := c.pendingLines + 1 } else { c with lines := c.lines + 1 }

/-- A line is taken in CAPTURING, until Hc lines are received (R121). -/
theorem Capture.onLine_of_taken {c : Capture} (hs : c.state = .capturing) (hr : c.nextLine < c.hc) (pixels : List Pixel) :
    c.onLine pixels = c.takeLine c.lineSlot c.nextLine pixels (Capture.countLine c.pendingStart) := by
  rw [Capture.onLine, hs]
  cases hp : c.pendingStart
  · rw [Capture.nextLine, hp] at hr
    simp only [Capture.lineSlot, Capture.nextLine, hp, Bool.false_eq_true, if_false]
    exact if_pos hr
  · rw [Capture.nextLine, hp] at hr
    simp only [Capture.lineSlot, Capture.nextLine, hp, if_true]
    exact if_pos hr

/-- A line is ignored outside CAPTURING and once Hc lines are received (R121). -/
theorem Capture.onLine_of_ignored {c : Capture} (h : ¬ (c.state = .capturing ∧ c.nextLine < c.hc)) (pixels : List Pixel) :
    c.onLine pixels = c := by
  rw [Capture.onLine]
  split
  case h_4 hs =>
    have full : ¬ c.nextLine < c.hc := fun hr => h ⟨hs, hr⟩
    rw [Capture.nextLine] at full
    split
    · rename_i hp
      rw [if_pos hp] at full
      exact if_neg full
    · rename_i hp
      rw [if_neg hp] at full
      exact if_neg full
  all_goals rfl

/-- An overflow is noticed (R122, R129). -/
theorem Capture.notices_overflow {c : Capture} (he : c.enabled = true) : c.notices c.overflow = true := by
  simp [Capture.notices, Capture.overflow, he]

/-- A short line is noticed: it counts a partial frame (R121, R129). -/
theorem Capture.notices_shortLine {c : Capture} (he : c.enabled = true) : c.notices c.shortLine = true := by
  simp [Capture.notices, Capture.shortLine, Capture.discardPartial, Capture.discard, Capture.moveSlots, he]

/-- Settles O23: a line is ignored, or taken by `Capture.takeLine`, whose three branches are the overflow, the short line and
the line that enters the FIFO. -/
theorem lineReceived : Obligations.LineReceived := by
  intro s pixels hon c row slot taken room
  have hexec : exec (.line pixels) s = .next (changeCapture (fun c => c.onLine pixels) s) := rfl
  refine ⟨fun hn => ?ignored, fun ht => ⟨_, hexec, sameBut_changeCapture _ s, fun hroom hwhole => ?_, fun hfull => ?_,
    fun hroom hshort => ?_⟩⟩
  case ignored => rw [hexec, changeCapture_of_same (Capture.onLine_of_ignored hn pixels)]
  all_goals
    obtain ⟨hs, hr⟩ := ht
    have hline : c.onLine pixels = c.takeLine slot row pixels (Capture.countLine c.pendingStart) :=
      Capture.onLine_of_taken hs hr pixels
    have hcapture : (changeCapture (fun c => c.onLine pixels) s).capture = c.onLine pixels :=
      (capture_changeCapture _ s).trans (if_pos hon)
    have hnotice := noticed_changeCapture (fun c => c.onLine pixels) s .source
  · have hin : c.onLine pixels = Capture.countLine c.pendingStart
        { c with fifo := c.fifo ++ Capture.tagged slot row 0 (pixels.take c.wc) } :=
      hline.trans (Capture.takeLine_of_room hroom hwhole)
    have quiet : c.notices (c.onLine pixels) = false := by
      rw [hin, Capture.countLine]
      split <;> simp [Capture.notices]
    refine ⟨link_changeCapture quiet, ?_⟩
    rw [hcapture, hin, Capture.countLine]
    cases c.pendingStart <;> exact ⟨rfl, rfl, rfl, hs, rfl, rfl, rfl⟩
  · have hin : c.onLine pixels = c.overflow := hline.trans (Capture.takeLine_of_full (Nat.lt_of_not_le hfull))
    refine ⟨hcapture.trans hin, ?_⟩
    rw [hnotice, show s.capture.onLine pixels = c.overflow from hin, Capture.notices_overflow hon]
    rfl
  · have hin : c.onLine pixels = c.shortLine := hline.trans (Capture.takeLine_of_short hroom hshort)
    refine ⟨hcapture.trans hin, ?_⟩
    rw [hnotice, show s.capture.onLine pixels = c.shortLine from hin, Capture.notices_shortLine hon]
    rfl

/-! ## INPUT_FRAME_START (R137 to R146) -/

/-- The output frame start that an input frame start at `now` places with L = 0 falls at `now` itself (R140). -/
def Timing.PlacedAt (t : Timing) (now : Nat) : Prop :=
  t.latency = 0 ∧ (t.pendingPlacement = some now ∨
    t.pendingPlacement = none ∧ ∃ start, t.latestStart = some start ∧ start + t.period / 2 ≤ now)

/-- What the placement test looks at, measuring, counting and arming leave (R137, R141, R143). -/
theorem Timing.placedAt_congr {t u : Timing} {now : Nat} (hl : u.latency = t.latency := by rfl)
    (hp : u.pendingPlacement = t.pendingPlacement := by rfl) (hs : u.latestStart = t.latestStart := by rfl)
    (hperiod : u.period = t.period := by rfl) : u.PlacedAt now ↔ t.PlacedAt now := by
  rw [Timing.PlacedAt, Timing.PlacedAt, hl, hp, hs, hperiod]

/-- The placement test places a start at its own input frame start just in these cases (R140). -/
theorem Timing.placedNow_place (t : Timing) (now : Nat) : (t.place now).placedNow now = true ↔ t.PlacedAt now := by
  rw [Timing.placedNow, Bool.and_eq_true, decide_eq_true_eq, decide_eq_true_eq, Timing.PlacedAt, Timing.place, and_comm]
  split
  · rename_i hp
    simp [hp]
  · rename_i hp hs
    simp [hp, hs]
  · rename_i start hp hs
    split
    · rename_i hfar
      simp only [hp, hs, Option.some.injEq, reduceCtorEq, false_or, true_and, exists_eq_left']
      omega
    · rename_i hnear
      simp only [hp, hs, Option.some.injEq, reduceCtorEq, false_or, true_and, exists_eq_left', and_false, false_iff]
      omega

/-- Counting toward lock leaves what the placement test looks at (R141). -/
theorem Timing.placedAt_countRun (t : Timing) (good : Bool) (now : Nat) :
    (t.countRun good).PlacedAt now ↔ t.PlacedAt now := by
  simp only [Timing.countRun]
  split
  · split <;> exact Timing.placedAt_congr
  · exact Timing.placedAt_congr

/-- One cadence after the latest start is not ahead, with nothing pending (R144). -/
theorem Timing.overdue_iff (t : Timing) (now : Nat) :
    t.overdue now = true ↔
      t.pendingPlacement = none ∧ ∃ start, t.latestStart = some start ∧ start + t.cadence ≤ now := by
  rw [Timing.overdue]
  split <;> simp_all

/-- A bad period leaves the measured period (R137). -/
theorem Timing.measured_of_bad {t : Timing} {now : Nat} (h : t.endsGood now = false) :
    (t.measure now).measured = t.measured := by
  simp [Timing.measure, h]

/-- The output frame start follows an input frame start in two cases: a placement with L = 0 falls at it, in ACQUIRE or at a
good period in LOCKED; or a bad period ends the lock with an overdue start (R140, R144). -/
theorem Timing.startsNow_iff (t : Timing) (now : Nat) :
    t.startsNow now = true ↔
      (t.state = .acquire ∨ t.state = .locked ∧ t.endsGood now = true) ∧ t.PlacedAt now ∨
        t.state = .locked ∧ t.endsGood now = false ∧ t.pendingPlacement = none ∧
          ∃ start, t.latestStart = some start ∧ start + (if t.holdoverLimit = 0 then t.period else t.measured) ≤ now := by
  have measured : (t.measure now).PlacedAt now ↔ t.PlacedAt now := Timing.placedAt_congr
  cases hs : t.state with
  | acquire =>
    have hplaced : t.startsNow now = (t.onInput now).placedNow now := by simp only [Timing.startsNow, hs]
    have hin : t.onInput now = (((t.measure now).countRun (t.endsGood now)).arm now).place now := by
      simp only [Timing.onInput, hs]
    have armed (u : Timing) : (u.arm now).PlacedAt now ↔ u.PlacedAt now := Timing.placedAt_congr
    rw [hplaced, hin, Timing.placedNow_place, armed, Timing.placedAt_countRun, measured]
    simp
  | locked =>
    cases hg : t.endsGood now with
    | true =>
      have hplaced : t.startsNow now = (((t.measure now).arm now).place now).placedNow now := by
        simp only [Timing.startsNow, Timing.onInput, hs, hg, if_true]
      have armed (u : Timing) : (u.arm now).PlacedAt now ↔ u.PlacedAt now := Timing.placedAt_congr
      rw [hplaced, Timing.placedNow_place, armed, measured]
      simp
    | false =>
      have hover : t.startsNow now = (t.measure now).overdue now := by
        simp only [Timing.startsNow, hs, hg, Bool.false_eq_true, if_false]
      have hcadence : (t.measure now).cadence = if t.holdoverLimit = 0 then t.period else t.measured := by
        rw [Timing.cadence, Timing.measured_of_bad hg]
        rfl
      rw [hover, Timing.overdue_iff, hcadence]
      simp [Timing.measure]
  | stopped => simp [Timing.startsNow, hs]
  | free => simp [Timing.startsNow, hs]
  | holdover => simp [Timing.startsNow, hs]

/-- A generator replaced raises TIMING where its timing state changes, and no other notice (R146). -/
theorem noticed_setTimingNoticed (t : Timing) (s : State) (g : NoticeGroup) :
    (setTimingNoticed t s).noticed g = (decide (t.state ≠ s.timing.state) && decide (g = .timing) || s.noticed g) := by
  rw [setTimingNoticed, noticed_raiseIf]
  exact congrArg _ (noticed_congr rfl g)

/-- Settles O16: the Capture Unit and the generator respond, and `Timing.startsNow_iff` says when the output frame start
follows. -/
theorem inputFrameStart : Obligations.InputFrameStart := by
  intro s now order
  refine ⟨setTimingNoticed (s.timing.onInput now) (changeCapture Capture.onInput s), ?same, ?_⟩
  case same =>
    intro p hp
    cases p <;> simp [Part.same] at hp ⊢
  intro g follows placed late issued
  have hexec : exec (.inputFrameStart now order) s = .next (issueIf (g.startsNow now) now order
      (setTimingNoticed (g.onInput now) (changeCapture Capture.onInput s))) := rfl
  have hissued : g.startsNow now = true ↔ issued := Timing.startsNow_iff g now
  refine ⟨setTimingNoticed_timing _ _, by simpa using capture_changeCapture Capture.onInput s, link_of_notice,
    fun group => ?notices, fun hn => ?stays, fun hi => ?follows⟩
  case notices =>
    have kept : (changeCapture Capture.onInput s).timing.state = g.state := by simp [g]
    rw [noticed_setTimingNoticed, noticed_changeCapture, kept]
    ac_rfl
  case stays => rw [hexec, issueIf, if_neg (fun hd => hn (hissued.mp hd))]
  case follows => rw [hexec, issueIf, if_pos (hissued.mpr hi)]

/-! ## FILL_DONE (R123) -/

/-- The slots after an older COMPLETE one is dropped (R123). -/
theorem Capture.get_dropComplete (c : Capture) (m : Fin 3) :
    c.dropComplete.slots.get m =
      if (c.slots.get m).state = .complete then { c.slots.get m with state := .free } else c.slots.get m := by
  rw [Capture.dropComplete]
  split
  · exact Arr.get_map _ _ _
  · rename_i hn
    rw [Option.not_isSome_iff_eq_none] at hn
    exact (if_neg (Capture.state_ne_of_slotIn c _ hn m)).symm

/-- The Capture Unit with the FILLING slot COMPLETE, before the next fill (R123). -/
def Capture.completed (c : Capture) : Capture := c.dropComplete.moveSlots .filling .complete

/-- Completing a fill changes the slots and the dropped count alone (R123). -/
theorem Capture.completed_keeps (c : Capture) :
    c.completed.fillSequence = c.fillSequence ∧ c.completed.pendingLines = c.pendingLines ∧ c.completed.fifo = c.fifo ∧
      c.completed.dropped = if (c.slotIn .complete).isSome then c.dropped + 1 else c.dropped := by
  simp only [Capture.completed, Capture.moveSlots, Capture.dropComplete]
  split <;> exact ⟨rfl, rfl, rfl, rfl⟩

/-- The slots with the fill complete: the FILLING one is COMPLETE, an older COMPLETE one is FREE (R123). -/
theorem Capture.get_completed (c : Capture) (m : Fin 3) :
    c.completed.slots.get m =
      if (c.slots.get m).state = .filling then { c.slots.get m with state := .complete }
      else if (c.slots.get m).state = .complete then { c.slots.get m with state := .free }
      else c.slots.get m := by
  have moved : c.completed.slots.get m =
      if (c.dropComplete.slots.get m).state = .filling then { c.dropComplete.slots.get m with state := .complete }
      else c.dropComplete.slots.get m := Arr.get_map _ _ _
  rw [moved, Capture.get_dropComplete]
  by_cases hc : (c.slots.get m).state = .complete
  · simp [hc]
  · simp only [hc, if_false]

/-- The slots FREE with the fill complete are those that were FREE or COMPLETE (R123). -/
theorem Capture.slotIn_completed (c : Capture) :
    c.completed.slotIn .free =
      lowest 3 (fun a => decide ((c.slots.get a).state = .free ∨ (c.slots.get a).state = .complete)) := by
  rw [Capture.slotIn]
  congr 1
  funext a
  rw [Capture.get_completed]
  cases h : (c.slots.get a).state <;> simp [h]

/-- The fill that a pending start begins takes the slot given, and with it the lines and the pixels that wait (R123). -/
theorem Capture.startPending_of_free {c : Capture} {m : Fin 3} (h : c.slotIn .free = some m)
    (hf : ∀ a, (c.slots.get a).state ≠ .filling) :
    c.startPending =
      { c with
        slots := c.slots.set m ⟨.filling, c.fillSequence + 1⟩
        fillSequence := c.fillSequence + 1
        state := .capturing
        lines := c.pendingLines
        pendingLines := 0
        pendingStart := false
        fifo := c.fifo.map (fun p => { p with slot := some m }) } := by
  have taken : c.startFill.slotIn .filling = some m := by
    rw [Capture.startFill_of_free h]
    refine lowest_unique (by simp) fun a ha => ?_
    by_contra hne
    rw [Arr.get_set_ne _ _ _ _ hne, decide_eq_true_eq] at ha
    exact hf a ha
  simp only [Capture.startPending, taken]
  rw [Capture.startFill_of_free h]

/-- The fill that a pending start begins takes a FREE slot, and leaves every other and the counters (R123). -/
theorem Capture.startPending_keeps (c : Capture) :
    c.startPending.dropped = c.dropped ∧
      ∀ a, (c.slots.get a).state ≠ .free → c.startPending.slots.get a = c.slots.get a := by
  simp only [Capture.startPending, Capture.startFill]
  split
  · exact ⟨rfl, fun _ _ => rfl⟩
  · rename_i m hm
    exact ⟨rfl, fun a ha => Arr.get_set_ne _ _ _ _ fun he => ha (he ▸ Capture.state_slotIn c _ m hm)⟩

/-- Settles O24: the slots with the fill complete (`Capture.get_completed`), and the fill that a pending start begins. -/
theorem fillDone : Obligations.FillDone := by
  intro s n hon hwritten hn hone c
  have hexec : exec .fillDone s = .next (changeCapture Capture.fillDone s) := by
    simp only [exec, execFillDone, hwritten, if_true]
  have hcapture : (changeCapture Capture.fillDone s).capture = c.fillDone := (capture_changeCapture _ s).trans (if_pos hon)
  have hfilling : (c.slots.get n).state = .filling := Capture.state_slotIn c _ n hn
  have getOf (m : Fin 3) (k : SlotState) (hk : (c.slots.get m).state = k) := hk ▸ Capture.get_completed c m
  obtain ⟨hsequence, hlines, hfifo, hdropped⟩ := c.completed_keeps
  refine ⟨_, hexec, sameBut_changeCapture _ s, ?_⟩
  rw [hcapture]
  cases hp : c.pendingStart with
  | false =>
    have hdone : c.fillDone = { c.completed with state := .waiting } := by
      rw [Capture.fillDone, hp]
      rfl
    rw [hdone]
    exact ⟨hdropped, getOf n _ hfilling, fun m hm => getOf m _ hm, fun _ => ⟨rfl, hsequence, fun m hm => getOf m _ hm⟩,
      nofun⟩
  | true =>
    have idle (a : Fin 3) : (c.completed.slots.get a).state ≠ .filling := by
      rw [Capture.get_completed]
      cases h : (c.slots.get a).state <;> simp [h]
    have hdone : c.fillDone = c.completed.startPending := by
      rw [Capture.fillDone, hp]
      rfl
    have kept (m : Fin 3) {slot : Slot} (hm : c.completed.slots.get m = slot) (hk : slot.state ≠ .free) :
        c.completed.startPending.slots.get m = slot :=
      (c.completed.startPending_keeps.2 m (hm ▸ hk)).trans hm
    rw [hdone]
    refine ⟨c.completed.startPending_keeps.1.trans hdropped, kept n (getOf n _ hfilling) (by simp),
      fun m hm => kept m (getOf m _ hm) (by simp [hm]), nofun, fun _ m hm => ?_⟩
    rw [← Capture.slotIn_completed] at hm
    rw [Capture.startPending_of_free hm idle, hsequence, hlines, hfifo]
    refine ⟨rfl, rfl, rfl, rfl, rfl, Arr.get_set_self _ _ _, fun a ha hk => ?_, rfl⟩
    refine (Arr.get_set_ne _ _ _ _ ha).trans ?_
    rcases hk with hk | hk
    · exact getOf a _ hk
    · have same : c.slots.get a = { c.slots.get a with state := .free } := by rw [← hk]
      exact (getOf a _ hk).trans same

/-! ## The handoff and the discard (R124, R126) -/

/-- Settles O25: the handoff moves the READING slot and then the COMPLETE one, and a discard the FILLING one. -/
theorem handoffAndDiscard : Obligations.HandoffAndDiscard := by
  intro c freeze
  refine ⟨fun hoff hc => ?handoff, fun hno => ⟨fun hr => ?repeated, fun hr => ?nothing⟩, fun n => Arr.get_map _ _ _, rfl, rfl,
    rfl, rfl, rfl, rfl, rfl, rfl, rfl, rfl⟩
  case handoff =>
    have moved : ((c.moveSlots .reading .free).moveSlots .complete .reading).slots = Arr.build (fun n =>
        if (c.slots.get n).state = .reading then { c.slots.get n with state := .free }
        else if (c.slots.get n).state = .complete then { c.slots.get n with state := .reading }
        else c.slots.get n) := by
      refine Arr.ext_get fun n => ?_
      simp only [Capture.moveSlots, Arr.get_map, Arr.get_build]
      cases h : (c.slots.get n).state <;> simp [h]
    rw [Capture.handoff, if_pos ⟨hoff, hc⟩, ← moved]
    rfl
  all_goals
    have noHandoff : ¬ (freeze = false ∧ (c.slotIn .complete).isSome = true) := by
      rintro ⟨hoff, hc⟩
      rcases hno with h | h
      · rw [hoff] at h
        cases h
      · rw [hc] at h
        cases h
    rw [Capture.handoff, if_neg noHandoff]
  case repeated => exact if_pos hr
  case nothing => exact if_neg (by rw [hr]; exact Bool.false_ne_true)

/-! ## The bursts of the capture writer, the fetchers and the status writer (R117, R122, R156, R168, R173) -/

/-- A grant is performed for the requester granted (R168). -/
theorem execBurstGrant_of_grant {s : State} {r : Requester} (h : nextGrant s = some r) (size : Nat) :
    exec (.burstGrant size) s = .next (performBurst size r (s.setArbiter (s.arbiter.grantTo r))) := by
  simp only [exec, execBurstGrant, h]

/-! ### The capture writer (R117, R122, R173) -/

/-- The capture writer comes first while the pixel at the head of the FIFO has its slot (R168, R169). -/
theorem nextGrant_of_pixel {s : State} {p : FifoPixel} {rest : List FifoPixel} {n : Fin 3}
    (hf : s.capture.fifo = p :: rest) (hp : p.slot = some n) : nextGrant s = some .captureWriter := by
  have hw : waits s .captureWriter = true := by simp [waits, captureWaits, hf, hp]
  rw [nextGrant, if_pos hw]

/-- The pixels that the capture writer's burst takes from the head of the FIFO (R122, R168; log 12). -/
def captureRun (size : Nat) (c : Capture) (n : Fin 3) (p : FifoPixel) : List FifoPixel :=
  pixelRun n p.row (pixelsInBurst size (c.pixelAddress n p.column p.row)) p.column c.fifo

/-- The capture writer's burst stores its run and takes it from the FIFO (R122). -/
theorem captureBurst_of_pixel {s : State} {p : FifoPixel} {rest : List FifoPixel} {n : Fin 3}
    (hf : s.capture.fifo = p :: rest) (hp : p.slot = some n) (size : Nat) :
    captureBurst size s =
      afterWrite ((captureRun size s.capture n p).flatMap (pixelCells s.capture n))
        (s.setCapture { s.capture with fifo := s.capture.fifo.drop (captureRun size s.capture n p).length }) := by
  simp only [captureBurst, captureRun, hf, hp]

/-- A capture burst takes one pixel at least (R122). -/
theorem pixelsInBurst_pos (size address : Nat) : 1 ≤ pixelsInBurst size address := by
  simp only [pixelsInBurst]
  omega

/-- The run of a pixel that has its slot begins with it (R122). -/
theorem captureRun_ne_nil {c : Capture} {p : FifoPixel} {rest : List FifoPixel} {n : Fin 3} (hf : c.fifo = p :: rest)
    (hp : p.slot = some n) (size : Nat) : captureRun size c n p ≠ [] := by
  have hmost := pixelsInBurst_pos size (c.pixelAddress n p.column p.row)
  obtain ⟨k, hk⟩ := Nat.exists_eq_add_of_le' hmost
  rw [captureRun, hk, hf, pixelRun, if_pos ⟨hp, rfl, rfl⟩]
  exact List.cons_ne_nil _ _

/-- A capture burst lies in one block, within the size given or one word, and ends with a word where the row's next pixel
waits behind it (R168, R173). -/
theorem captureRun_bounds (size : Nat) (c : Capture) (n : Fin 3) (p : FifoPixel)
    (h : c.pixelAddress n p.column p.row % 4 = 0) :
    c.pixelAddress n p.column p.row % 256 + 4 * (captureRun size c n p).length ≤ 256 ∧
      4 * (captureRun size c n p).length ≤ max 8 size ∧
      ∀ q, (c.fifo.drop (captureRun size c n p).length).head? = some q → q.slot = some n → q.row = p.row →
        q.column = p.column + (captureRun size c n p).length →
        (c.pixelAddress n p.column p.row + 4 * (captureRun size c n p).length) % 8 = 0 := by
  obtain ⟨-, hblock, hsize, hword⟩ := pixelsInBurst_bounds size _ h
  have hle : (captureRun size c n p).length ≤ pixelsInBurst size (c.pixelAddress n p.column p.row) :=
    pixelRun_length_le _ _ _ _ _
  refine ⟨by omega, by omega, fun q hq hslot hrow hcolumn => ?_⟩
  have whole : (captureRun size c n p).length = pixelsInBurst size (c.pixelAddress n p.column p.row) :=
    pixelRun_length_eq _ _ _ _ _ q hq hslot hrow hcolumn
  rw [whole]
  exact hword

/-- A capture burst changes the FIFO, memory, the fault record and the registers alone (R122). -/
theorem sameBut_captureBurst (size : Nat) (s : State) :
    State.sameBut [.capture, .memory, .status, .link] s (captureBurst size s) := by
  intro p hp
  cases p <;> simp [Part.same] at hp ⊢

/-! ### A channel fetcher (R156, R172) -/

/-- A fetcher's burst changes its own channel's window, the corrected count, the fault record and the registers alone
(R156, R171, R172). -/
theorem sameBut_fetchBurst (size : Nat) (c : Fin 6) (s : State) :
    State.sameBut [.channels, .memory, .status, .link] s (fetchBurst size c s) := by
  intro p hp
  cases p <;> simp [Part.same] at hp ⊢

/-- A fetcher's burst leaves the other channels (R156). -/
theorem channels_fetchBurst_ne {c d : Fin 6} (h : d ≠ c) (size : Nat) (s : State) :
    (fetchBurst size c s).channels.get d = s.channels.get d := by
  rw [fetchBurst]
  split
  · simp only [afterRead_frame, channels_requestRow, channels_modifyChannel, if_neg h]
  · rfl

/-- A fetcher's burst leaves every byte of memory (R156). -/
theorem read_fetchBurst (size : Nat) (c : Fin 6) (s : State) (a : Nat) :
    (fetchBurst size c s).memory.read a = s.memory.read a := by
  rw [fetchBurst]
  split
  · simp only [afterRead_read, requestRow_frame, modifyChannel_frame]
  · rfl

/-! ### The status writer (R168, R177) -/

/-- A write of the status writer is stored (R168, R173). -/
theorem statusBurst_write {s : State} {cells : List (Nat × Byte)} {rest : List StatusRequest}
    (h : s.status.queue = .write cells :: rest) :
    statusBurst s = afterWrite cells (s.setStatus { s.status with queue := rest }) := by
  rw [statusBurst, h]

/-- A read of a START is returned while it is wanted (R177, R179). -/
theorem statusBurst_startRead {s : State} {block : StartBlock} {address length : Nat} {wanted : Bool}
    {rest : List StatusRequest} (h : s.status.queue = .startRead block address length wanted :: rest) :
    statusBurst s = takeReturn block (s.memory.readBytes address length) wanted
      (afterRead address length (s.setStatus { s.status with queue := rest })) := by
  rw [statusBurst, h]

/-- The device after a read of a START returns (R177, R179). -/
theorem device_takeReturn (block : StartBlock) (bytes : List Byte) (wanted : Bool) (s : State) :
    (takeReturn block bytes wanted s).device =
      { s.device with returned := if wanted then s.device.returned ++ [(block, bytes)] else s.device.returned } := by
  rw [takeReturn]
  split <;> rfl

/-- A write burst changes memory, the fault record and the registers alone (R173). -/
theorem sameBut_afterWrite (cells : List (Nat × Byte)) (rest : List StatusRequest) (s : State) :
    State.sameBut [.memory, .status, .link] s (afterWrite cells (s.setStatus { s.status with queue := rest })) := by
  intro p hp
  cases p <;> simp [Part.same] at hp ⊢

/-! ### The rows of a window (R156, log 21) -/

/-- The row that a fetcher reads is the first of the window that is not whole, while its channel renders (R156). -/
theorem nextRow_eq_some_iff (s : State) (c : Fin 6) (r : WindowRow) :
    nextRow s c = some r ↔ (s.channels.get c).rendering = true ∧ ∃ before after,
      (s.channels.get c).window = before ++ r :: after ∧ (∀ q ∈ before, 4 * s.capture.wc ≤ q.got.length) ∧
        r.got.length < 4 * s.capture.wc := by
  simp only [nextRow, requested]
  split
  · rename_i hr
    simp only [hr, true_and, List.find?_eq_some_iff_append, WindowRow.whole, Bool.not_eq_true', decide_eq_false_iff_not,
      Nat.not_le, Bool.not_not, decide_eq_true_eq]
    constructor
    · rintro ⟨hlt, before, after, hw, hb⟩
      exact ⟨before, after, hw, hb, hlt⟩
    · rintro ⟨before, after, hw, hb, hlt⟩
      exact ⟨hlt, before, after, hw, hb⟩
  · rename_i hr
    simp [hr]

/-- The window does not hold a row just where none of its rows is that row. -/
theorem windowRow_isNone_iff (window : List WindowRow) (row : Nat) :
    (windowRow window row).isNone = true ↔ ∀ r ∈ window, r.row ≠ row := by
  simp [windowRow]

/-- A row that a pixel left needs and the window does not hold (R156). -/
def State.RowWanted (s : State) (c : Fin 6) (window : List WindowRow) (row : Nat) : Prop :=
  rowNeeded s c row = true ∧ ∀ r ∈ window, r.row ≠ row

/-- What a request looks for in the order of need (R156). -/
theorem rowWanted_iff (s : State) (c : Fin 6) (window : List WindowRow) (row : Nat) :
    (rowNeeded s c row && (windowRow window row).isNone) = true ↔ s.RowWanted c window row := by
  rw [Bool.and_eq_true, windowRow_isNone_iff, State.RowWanted]

/-- With no row wanted none is requested (R156). -/
theorem rowToRequest_eq_none {s : State} {c : Fin 6} {window : List WindowRow} (h : ∀ row, ¬ s.RowWanted c window row) :
    rowToRequest s c window = none := by
  rw [rowToRequest, List.find?_eq_none]
  exact fun row _ hw => h row ((rowWanted_iff _ _ _ _).mp hw)

/-- The rows in the order of need up to one place in the needs of a pixel, and from there on (R156). -/
theorem rowsInOrder_split {s : State} {c : Fin 6} {n : Nat} {p : Nat × Nat} {before after : List (Nat × Nat)}
    (hn : n < s.layout.rasterPixels) (hp : needsOf s c n = before ++ p :: after) :
    ∃ rest, rowsInOrder s c =
      ((List.range n).flatMap (fun m => (needsOf s c m).map Prod.snd) ++ before.map Prod.snd) ++ p.2 :: rest := by
  obtain ⟨k, hk⟩ := Nat.exists_eq_add_of_lt hn
  refine ⟨after.map Prod.snd ++ ((List.range k).map (n + 1 + ·)).flatMap (fun m => (needsOf s c m).map Prod.snd), ?_⟩
  have order : List.range s.layout.rasterPixels = List.range n ++ n :: (List.range k).map (n + 1 + ·) := by
    rw [hk, show n + k + 1 = n + 1 + k by omega, List.range_add, List.range_succ, List.append_assoc]
    rfl
  simp only [rowsInOrder, order, List.flatMap_append, List.flatMap_cons, hp, List.map_append, List.map_cons,
    List.append_assoc, List.cons_append]

/-- The row requested is the first wanted in the order of need (R156, log 21). -/
theorem rowToRequest_of_first {s : State} {c : Fin 6} {window : List WindowRow} {n : Nat} {p : Nat × Nat}
    {before after : List (Nat × Nat)} (hn : n < s.layout.rasterPixels) (hp : needsOf s c n = before ++ p :: after)
    (hw : s.RowWanted c window p.2) (hbefore : ∀ q ∈ before, ¬ s.RowWanted c window q.2)
    (hearlier : ∀ m < n, ∀ q ∈ needsOf s c m, ¬ s.RowWanted c window q.2) : rowToRequest s c window = some p.2 := by
  obtain ⟨rest, hsplit⟩ := rowsInOrder_split hn hp
  rw [rowToRequest, hsplit, List.find?_eq_some_iff_append]
  refine ⟨(rowWanted_iff _ _ _ _).mpr hw, _, rest, rfl, fun row hrow => ?_⟩
  have unwanted : ¬ s.RowWanted c window row := by
    rcases List.mem_append.mp hrow with hrow | hrow
    · obtain ⟨m, hm, hrow⟩ := List.mem_flatMap.mp hrow
      obtain ⟨q, hq, rfl⟩ := List.mem_map.mp hrow
      exact hearlier m (List.mem_range.mp hm) q hq
    · obtain ⟨q, hq, rfl⟩ := List.mem_map.mp hrow
      exact hbefore q hq
  rw [Bool.not_eq_true', ← Bool.not_eq_true, rowWanted_iff]
  exact unwanted

/-- A channel that renders, with every requested row whole and fewer than 130 rows, requests the next one (R156). -/
theorem request_of_asks {s : State} {c : Fin 6} {window : List WindowRow} (hr : (s.channels.get c).rendering = true)
    (hw : ∀ r ∈ window, 4 * s.capture.wc ≤ r.got.length) (hl : window.length < 130) :
    request s c window = window ++ (rowToRequest s c window).toList.map (fun row => ⟨row, []⟩) :=
  if_pos ⟨hr, (requested_eq_none s window).mpr hw, hl⟩

/-- Settles O42: the capture writer by its run of pixels, a fetcher by the row it reads, the status writer by the request it
holds first, and the row requested by the order of need. -/
theorem partBursts : Obligations.PartBursts := by
  intro s size
  refine ⟨fun p rest n hf hp => ?capture, fun c r n hg hr hn => ?fetch, fun cells rest hg hq => ?write,
    fun block address length wanted rest hg hq => ?read, fun c window => ?rows⟩
  case capture =>
    have hburst := captureBurst_of_pixel hf hp size
    have hcapture : (captureBurst size s).capture =
        { s.capture with fifo := s.capture.fifo.drop (captureRun size s.capture n p).length } := by
      rw [hburst]
      simp
    have hfifo := congrArg Capture.fifo hcapture
    refine ⟨captureBurst size s, captureRun size s.capture n p, execBurstGrant_of_grant (nextGrant_of_pixel hf hp) size,
      sameBut_captureBurst size s, ?_, captureRun_ne_nil hf hp size, by rw [hcapture],
      fun i q hq => pixelRun_get _ _ _ _ _ i q hq, ?_, ?_, ?_⟩
    · rw [hfifo]
      exact (pixelRun_prefix _ _ _ _ _).symm
    · rw [hfifo]
      exact captureRun_bounds size s.capture n p
    · rw [hburst, afterWrite_memory]
      rfl
    · rw [hburst, (afterWrite_status _ _).1]
      rfl
  case fetch =>
    intro address stored length
    let u := s.setArbiter (s.arbiter.grantTo (.fetcher c))
    refine ⟨fetchBurst size c u, execBurstGrant_of_grant hg size, ?_, channels_fetchBurst u size c r n hr hn,
      fun d hd => channels_fetchBurst_ne hd size u, fun a => read_fetchBurst size c u a⟩
    intro p hp
    have kept := sameBut_fetchBurst size c u p
    cases p <;> simp [Part.same, u] at hp kept ⊢
  case write =>
    have hburst := statusBurst_write hq
    refine ⟨statusBurst s, execBurstGrant_of_grant hg size, hburst ▸ sameBut_afterWrite cells rest s, ?_, ?_, ?_⟩
    · rw [hburst, afterWrite_memory]
      rfl
    · rw [hburst, (afterWrite_status _ _).1]
      rfl
    · rw [hburst, (afterWrite_status _ _).2]
      rfl
  case read =>
    have hburst := statusBurst_startRead hq
    refine ⟨statusBurst s, execBurstGrant_of_grant hg size, ?_, ?_, ?_, fun a => ?_⟩
    · intro p hp
      cases p <;> simp [Part.same] at hp ⊢
    · rw [hburst, device_takeReturn]
      simp
    · rw [hburst]
      simp
    · rw [hburst]
      simp [afterRead_read]
  case rows =>
    intro ch needed wanted asks
    have hneeded : ∀ row, rowNeeded s c row = true ↔ needed row := rowNeeded_iff s c
    have hwanted : ∀ row, s.RowWanted c window row ↔ wanted row := fun row => and_congr (hneeded row) Iff.rfl
    refine ⟨hneeded, nextRow_eq_some_iff s c, fun h => ?quiet, fun n p before after ha hn hp hw hb he => ?next⟩
    case quiet =>
      by_cases ha : asks
      · obtain ⟨hr, hwhole, hl⟩ := ha
        have unwanted : ∀ row, ¬ s.RowWanted c window row := fun row hrow =>
          h.elim (fun hna => hna ⟨hr, hwhole, hl⟩) fun hno => hno row ((hwanted row).mp hrow)
        rw [request_of_asks hr hwhole hl, rowToRequest_eq_none unwanted]
        exact List.append_nil _
      · exact if_neg fun hc => ha ⟨hc.1, (requested_eq_none s window).mp hc.2.1, hc.2.2⟩
    case next =>
      obtain ⟨hr, hwhole, hl⟩ := ha
      rw [request_of_asks hr hwhole hl, rowToRequest_of_first hn hp ((hwanted _).mpr hw)
        (fun q hq hrow => hb q hq ((hwanted _).mp hrow)) (fun m hm q hq hrow => he m hm q hq ((hwanted _).mp hrow))]
      rfl

end Sys2Proof.Machine

namespace Sys2Proof.Machine

-- As above: one proof is checked after another.
set_option Elab.async false

/-! ## The generator's operations (R137 to R144) -/

section
variable (t : Timing) (now : Nat)

/-- Two states of the generator agree on the profile's values, the frame number and the latest output frame start. -/
structure Timing.SameClock (t u : Timing) : Prop where
  period : u.period = t.period
  lockMode : u.lockMode = t.lockMode
  latency : u.latency = t.latency
  holdoverLimit : u.holdoverLimit = t.holdoverLimit
  frame : u.frame = t.frame
  latestStart : u.latestStart = t.latestStart

/-- A state of the generator agrees with itself. -/
theorem Timing.SameClock.refl (t : Timing) : t.SameClock t := ⟨rfl, rfl, rfl, rfl, rfl, rfl⟩

/-- Agreement passes on from one state of the generator to the next. -/
theorem Timing.SameClock.trans {t u v : Timing} (h : t.SameClock u) (k : u.SameClock v) : t.SameClock v where
  period := k.period.trans h.period
  lockMode := k.lockMode.trans h.lockMode
  latency := k.latency.trans h.latency
  holdoverLimit := k.holdoverLimit.trans h.holdoverLimit
  frame := k.frame.trans h.frame
  latestStart := k.latestStart.trans h.latestStart

/-- The placement test changes the pending placement alone (R140). -/
@[simp] theorem Timing.place_frame :
    (t.place now).state = t.state ∧ (t.place now).deadline = t.deadline ∧ (t.place now).measured = t.measured ∧
    (t.place now).goodRun = t.goodRun ∧ (t.place now).latestInput = t.latestInput ∧
    (t.place now).nextScheduled = t.nextScheduled ∧ (t.place now).holdoverCount = t.holdoverCount := by
  rw [Timing.place]
  split
  · simp
  · simp
  · split <;> simp

/-- Counting toward lock changes the timing state and the good-run count alone (R141). -/
@[simp] theorem Timing.countRun_frame (good : Bool) :
    (t.countRun good).measured = t.measured ∧ (t.countRun good).latestInput = t.latestInput ∧
    (t.countRun good).pendingPlacement = t.pendingPlacement := by
  simp only [Timing.countRun]
  split
  · split <;> simp
  · simp

/-- A placement test leaves the clock. -/
theorem Timing.sameClock_place : t.SameClock (t.place now) := by
  rw [Timing.place]
  split
  · exact .refl t
  · exact .refl t
  · split <;> exact ⟨rfl, rfl, rfl, rfl, rfl, rfl⟩

/-- Counting toward lock leaves the clock. -/
theorem Timing.sameClock_countRun (good : Bool) : t.SameClock (t.countRun good) := by
  simp only [Timing.countRun]
  split
  · split <;> exact ⟨rfl, rfl, rfl, rfl, rfl, rfl⟩
  · exact ⟨rfl, rfl, rfl, rfl, rfl, rfl⟩

/-- A measurement leaves the clock (R137). -/
theorem Timing.sameClock_measure : t.SameClock (t.measure now) := ⟨rfl, rfl, rfl, rfl, rfl, rfl⟩

/-- A deadline armed leaves the clock (R143). -/
theorem Timing.sameClock_arm : t.SameClock (t.arm now) := ⟨rfl, rfl, rfl, rfl, rfl, rfl⟩

/-- Entry to ACQUIRE leaves the clock (R139). -/
theorem Timing.sameClock_enterAcquire : t.SameClock (t.enterAcquire now) := ⟨rfl, rfl, rfl, rfl, rfl, rfl⟩

/-- The end of following leaves the clock (R144). -/
theorem Timing.sameClock_leaveLock : t.SameClock (t.leaveLock now) := ⟨rfl, rfl, rfl, rfl, rfl, rfl⟩

/-- The end of following leaves the measured period and the placement, and clears the deadline and the counts (R144). -/
@[simp] theorem Timing.leaveLock_frame :
    (t.leaveLock now).state = (if t.holdoverLimit = 0 then .free else .holdover) ∧ (t.leaveLock now).deadline = none ∧
    (t.leaveLock now).goodRun = 0 ∧ (t.leaveLock now).holdoverCount = 0 ∧ (t.leaveLock now).measured = t.measured ∧
    (t.leaveLock now).latestInput = t.latestInput ∧ (t.leaveLock now).pendingPlacement = t.pendingPlacement :=
  ⟨rfl, rfl, rfl, rfl, rfl, rfl, rfl⟩

/-- The end of following does not stop the generator (R144). -/
theorem Timing.leaveLock_not_stopped : (t.leaveLock now).state ≠ .stopped := by
  simp only [Timing.leaveLock]
  split <;> simp

/-- Counting toward lock does not stop the generator (R141). -/
theorem Timing.countRun_not_stopped (h : t.state ≠ .stopped) (good : Bool) : (t.countRun good).state ≠ .stopped := by
  simp only [Timing.countRun]
  split
  · split <;> simp [h]
  · exact h

/-! ### An input frame start, by the timing state and the period (R136 to R144) -/

variable {t}

/-- In STOPPED the generator does not take an input frame start (R136). -/
theorem Timing.onInput_of_stopped (hs : t.state = .stopped) : t.onInput now = t := by
  simp only [Timing.onInput, hs]

/-- In FREE a good period begins to follow the source in lock mode FOLLOW (R138). -/
theorem Timing.onInput_of_free_follow (hs : t.state = .free) (hg : t.endsGood now = true) (hm : t.lockMode = .follow) :
    t.onInput now = (t.measure now).enterAcquire now := by
  simp [Timing.onInput, hs, hg, hm]

/-- In FREE any other input frame start is only measured (R138). -/
theorem Timing.onInput_of_free_stay (hs : t.state = .free) (h : t.endsGood now = false ∨ t.lockMode = .freeOnly) :
    t.onInput now = t.measure now := by
  rcases h with hg | hm
  · simp [Timing.onInput, hs, hg]
  · simp [Timing.onInput, hs, hm]

/-- In ACQUIRE the run is counted, the deadline armed, and the placement test made, whatever the period (R140, R141, R143). -/
theorem Timing.onInput_of_acquire (hs : t.state = .acquire) :
    t.onInput now = (((t.measure now).countRun (t.endsGood now)).arm now).place now := by
  simp only [Timing.onInput, hs]

/-- In LOCKED a good period arms the deadline and makes the placement test (R142). -/
theorem Timing.onInput_of_locked_good (hs : t.state = .locked) (hg : t.endsGood now = true) :
    t.onInput now = ((t.measure now).arm now).place now := by
  simp [Timing.onInput, hs, hg]

/-- In LOCKED a bad period ends the lock (R142). -/
theorem Timing.onInput_of_locked_bad (hs : t.state = .locked) (hg : t.endsGood now = false) :
    t.onInput now = (t.measure now).leaveLock now := by
  simp [Timing.onInput, hs, hg]

/-- In HOLDOVER a good period begins to follow the source again (R144). -/
theorem Timing.onInput_of_holdover_good (hs : t.state = .holdover) (hg : t.endsGood now = true) :
    t.onInput now = (t.measure now).enterAcquire now := by
  simp [Timing.onInput, hs, hg]

/-- In HOLDOVER a bad period is only measured (R144). -/
theorem Timing.onInput_of_holdover_bad (hs : t.state = .holdover) (hg : t.endsGood now = false) :
    t.onInput now = t.measure now := by
  simp [Timing.onInput, hs, hg]

/-- What a measurement sets up and the generator's operations keep holds after an input frame start that the generator takes. -/
theorem Timing.onInput_preserves (P : Timing → Prop) (hs : t.state ≠ .stopped) (hmeasure : P (t.measure now))
    (hacquire : ∀ v, P v → P (v.enterAcquire now)) (hcount : ∀ v good, P v → P (v.countRun good))
    (harm : ∀ v, P v → P (v.arm now)) (hplace : ∀ v, P v → P (v.place now)) (hleave : ∀ v, P v → P (v.leaveLock now)) :
    P (t.onInput now) := by
  cases h : t.state with
  | stopped => exact absurd h hs
  | free =>
    simp only [Timing.onInput, h]
    split
    · exact hacquire _ hmeasure
    · exact hmeasure
  | acquire =>
    rw [Timing.onInput_of_acquire now h]
    exact hplace _ (harm _ (hcount _ _ hmeasure))
  | locked =>
    cases hg : t.endsGood now with
    | true =>
      rw [Timing.onInput_of_locked_good now h hg]
      exact hplace _ (harm _ hmeasure)
    | false =>
      rw [Timing.onInput_of_locked_bad now h hg]
      exact hleave _ hmeasure
  | holdover =>
    simp only [Timing.onInput, h]
    split
    · exact hacquire _ hmeasure
    · exact hmeasure

variable (t)

/-- An input frame start leaves the profile's values, the frame number and the latest output frame start. -/
theorem Timing.sameClock_onInput : t.SameClock (t.onInput now) := by
  by_cases hs : t.state = .stopped
  · rw [Timing.onInput_of_stopped now hs]
    exact .refl t
  · exact Timing.onInput_preserves now t.SameClock hs (t.sameClock_measure now)
      (fun v h => h.trans (v.sameClock_enterAcquire now)) (fun v good h => h.trans (v.sameClock_countRun good))
      (fun v h => h.trans (v.sameClock_arm now)) (fun v h => h.trans (v.sameClock_place now))
      (fun v h => h.trans (v.sameClock_leaveLock now))

/-- An input frame start keeps the generator in STOPPED, or out of it (R136). -/
theorem Timing.stopped_onInput : (t.onInput now).state = .stopped ↔ t.state = .stopped := by
  by_cases hs : t.state = .stopped
  · rw [Timing.onInput_of_stopped now hs]
  · have acquired (v : Timing) : (v.enterAcquire now).state ≠ .stopped := by simp [Timing.enterAcquire, Timing.arm]
    exact iff_of_false (Timing.onInput_preserves now (fun v => v.state ≠ .stopped) hs hs (fun v _ => acquired v)
      (fun v good h => v.countRun_not_stopped h good) (fun _ h => h) (fun v h => by simpa using h)
      (fun v _ => v.leaveLock_not_stopped now)) hs

/-- An input frame start that the generator takes is recorded, and the measurement stands (R137). -/
theorem Timing.measurement_onInput (hs : t.state ≠ .stopped) :
    (t.onInput now).latestInput = some now ∧ (t.onInput now).measured = (t.measure now).measured :=
  Timing.onInput_preserves now (fun v => v.latestInput = some now ∧ v.measured = (t.measure now).measured) hs
    ⟨rfl, rfl⟩ (fun _ h => h) (fun v good h => by simpa using h) (fun _ h => h) (fun v h => by simpa using h)
    (fun _ h => h)

end

/-! ### The measurement, the run and the cadence (R137, R139, R141, R144) -/

/-- An input period is good when it is measured and lies within floor(P/256) of P (R137). -/
theorem Timing.endsGood_iff (t : Timing) (now : Nat) :
    t.endsGood now = true ↔
      ∃ last, t.latestInput = some last ∧ |((now : Int) - last) - t.period| ≤ (t.period / 256 : Nat) := by
  rw [Timing.endsGood]
  split
  · rename_i hl
    simp [hl]
  · rename_i last hl
    simp [hl, Timing.goodPeriod]

section
variable {t : Timing} (now : Nat)

/-- A good period becomes the measured period (R137). -/
theorem Timing.measured_of_good (hg : t.endsGood now = true) {last : Nat} (hl : t.latestInput = some last) :
    (t.measure now).measured = now - last := by
  simp [Timing.measure, hg, hl]

/-- What entry to ACQUIRE sets: no cadence, a run of one good period, the deadline armed, and a placement that stands (R139). -/
theorem Timing.enterAcquire_sets (t : Timing) (now : Nat) :
    (t.enterAcquire now).state = .acquire ∧ (t.enterAcquire now).nextScheduled = none ∧ (t.enterAcquire now).goodRun = 1 ∧
    (t.enterAcquire now).holdoverCount = 0 ∧
    (t.enterAcquire now).deadline =
      some (now + ((t.enterAcquire now).measured + (t.enterAcquire now).measured / 2)) ∧
    (t.enterAcquire now).pendingPlacement = t.pendingPlacement :=
  ⟨rfl, rfl, rfl, rfl, rfl, rfl⟩

/-- Counting toward lock, by the period and the count so far (R141). -/
theorem Timing.countRun_cases (t : Timing) :
    ((t.countRun false).state = t.state ∧ (t.countRun false).goodRun = 0) ∧
    (t.goodRun + 1 < 8 → (t.countRun true).state = t.state ∧ (t.countRun true).goodRun = t.goodRun + 1) ∧
    (8 ≤ t.goodRun + 1 → (t.countRun true).state = .locked ∧ (t.countRun true).goodRun = 8) := by
  refine ⟨by simp [Timing.countRun], fun hn => ?_, fun hn => ?_⟩
  · have few : ¬ Config.lockPeriods ≤ t.goodRun + 1 := Nat.not_le.mpr hn
    simp [Timing.countRun, few]
  · have enough : Config.lockPeriods ≤ t.goodRun + 1 := hn
    have counted : t.countRun true = { t with state := .locked, goodRun := Config.lockPeriods } :=
      (if_pos rfl).trans (if_pos enough)
    rw [counted]
    exact ⟨rfl, rfl⟩

/-- What the end of following schedules: nothing beside a placement, else one cadence after the latest start where that lies
ahead (R144, log 22). -/
theorem Timing.nextScheduled_leaveLock (t : Timing) (now : Nat) :
    (t.pendingPlacement ≠ none → (t.leaveLock now).nextScheduled = none) ∧
    ∀ start, t.pendingPlacement = none → t.latestStart = some start →
      (t.leaveLock now).nextScheduled = if now < start + t.cadence then some (start + t.cadence) else none := by
  refine ⟨fun hp => ?_, fun start hp hs => by simp [Timing.leaveLock, hp, hs]⟩
  obtain ⟨p, hp⟩ := Option.ne_none_iff_exists'.mp hp
  simp [Timing.leaveLock, hp]

/-- The cadence after the measurement of a bad period is the one before it (R137, R144). -/
theorem Timing.cadence_of_bad (hg : t.endsGood now = false) :
    (t.measure now).cadence = if t.holdoverLimit = 0 then t.period else t.measured := by
  rw [Timing.cadence, Timing.measured_of_bad hg]
  rfl

end

/-! ### The placement test (R140) -/

section
variable {t : Timing} (now : Nat)

/-- A pending placement stands (R140). -/
theorem Timing.place_of_pending {p : Nat} (hp : t.pendingPlacement = some p) : t.place now = t := by
  simp [Timing.place, hp]

/-- With nothing pending a start is placed where the frame in progress then lasts at least floor(P/2) ticks (R140). -/
theorem Timing.place_of_latest {s : Nat} (hp : t.pendingPlacement = none) (hs : t.latestStart = some s) :
    (t.place now).pendingPlacement = if s + t.period / 2 ≤ now + t.latency then some (now + t.latency) else none := by
  simp only [Timing.place, hp, hs]
  split
  · rfl
  · exact hp

/-- In ACQUIRE, and for a good period in LOCKED, the last thing an input frame start does is the placement test, on the clock
and the placement as they were (R140). -/
theorem Timing.onInput_eq_place (h : t.state = .acquire ∨ t.state = .locked ∧ t.endsGood now = true) :
    ∃ v : Timing, t.onInput now = v.place now ∧ t.SameClock v ∧ v.pendingPlacement = t.pendingPlacement := by
  have measured := t.sameClock_measure now
  rcases h with hs | ⟨hs, hg⟩
  · exact ⟨_, Timing.onInput_of_acquire now hs,
      (measured.trans (Timing.sameClock_countRun _ _)).trans (Timing.sameClock_arm _ now),
      by simp [Timing.arm, Timing.measure]⟩
  · exact ⟨_, Timing.onInput_of_locked_good now hs hg, measured.trans (Timing.sameClock_arm _ now), rfl⟩

end

/-! ### An output frame start (R135, R138, R144) -/

section
variable {t : Timing} (now : Nat)

/-- What an output frame start does in every timing state (R135). -/
theorem Timing.startAt_frame (t : Timing) (now : Nat) :
    (t.startAt now).frame = t.frame + 1 ∧ (t.startAt now).latestStart = some now ∧
    (t.startAt now).pendingPlacement = none ∧ (t.startAt now).measured = t.measured ∧
    (t.startAt now).latestInput = t.latestInput ∧ (t.startAt now).deadline = t.deadline ∧
    (t.startAt now).period = t.period ∧ (t.startAt now).goodRun = t.goodRun := by
  simp only [Timing.startAt]
  split
  case h_5 => split <;> exact ⟨rfl, rfl, rfl, rfl, rfl, rfl, rfl, rfl⟩
  all_goals exact ⟨rfl, rfl, rfl, rfl, rfl, rfl, rfl, rfl⟩

/-- In FREE the next start follows P later (R138). -/
theorem Timing.startAt_of_free (hs : t.state = .free) :
    (t.startAt now).state = .free ∧ (t.startAt now).nextScheduled = some (now + t.period) := by
  simp [Timing.startAt, hs]

/-- In ACQUIRE and LOCKED the next start waits for an input frame start (R140). -/
theorem Timing.startAt_of_following (hs : t.state = .acquire ∨ t.state = .locked) :
    (t.startAt now).state = t.state ∧ (t.startAt now).nextScheduled = none := by
  rcases hs with hs | hs <;> simp [Timing.startAt, hs]

/-- In HOLDOVER the start is counted (R144). -/
theorem Timing.holdoverCount_startAt (hs : t.state = .holdover) :
    (t.startAt now).holdoverCount = t.holdoverCount + 1 := by
  simp only [Timing.startAt, hs]
  split <;> rfl

/-- The H-th start of HOLDOVER enters FREE (R144). -/
theorem Timing.startAt_of_last (hs : t.state = .holdover) (hn : t.holdoverCount + 1 = t.holdoverLimit) :
    (t.startAt now).state = .free ∧ (t.startAt now).nextScheduled = some (now + t.period) := by
  simp [Timing.startAt, hs, hn]

/-- Before the H-th the next start of HOLDOVER follows M later (R144). -/
theorem Timing.startAt_of_held (hs : t.state = .holdover) (hn : t.holdoverCount + 1 ≠ t.holdoverLimit) :
    (t.startAt now).state = .holdover ∧ (t.startAt now).nextScheduled = some (now + t.measured) := by
  simp [Timing.startAt, hs, hn]

end

/-! ## The spacing of output frame starts, step by step (R134, R135, R140, R144, R147) -/

/-- An output frame start at `now` comes at least floor(P/2) ticks after the latest one (R135). -/
def Timing.FarAt (t : Timing) (now : Nat) : Prop := ∀ a, t.latestStart = some a → a + t.period / 2 ≤ now

/-- A start that the later state counts comes at least floor(P/2) ticks after the latest one of the earlier state (R135). -/
def Timing.Apart (t u : Timing) : Prop :=
  ∀ a b, t.latestStart = some a → u.latestStart = some b → u.frame ≠ t.frame → a + t.period / 2 ≤ b

section
variable {t u : Timing} {now : Nat}

/-- The next start, placed or scheduled, is far enough (R138, R140). -/
theorem Timing.farAt_of_nextStart (h : t.SpacedOk) (hn : t.nextStart = some now) : t.FarAt now :=
  fun a ha => h.spaced a now ha hn

/-- A start that is overdue at the end of following is far enough: the cadence is at least floor(P/2) (R144). -/
theorem Timing.farAt_of_overdue (h : t.SpacedOk) (hs : t.state = .acquire ∨ t.state = .locked)
    (ho : t.overdue now = true) : t.FarAt now := by
  intro a ha
  obtain ⟨-, start, hstart, hlate⟩ := (t.overdue_iff now).mp ho
  obtain rfl : start = a := Option.some.inj (hstart.symm.trans ha)
  have measured : t.period / 2 ≤ t.measured := h.measured (hs.imp_right .inl)
  have cadence : t.period / 2 ≤ t.cadence := by
    rw [Timing.cadence]
    split <;> omega
  omega

/-- A start that an input frame start places at itself is far enough (R140). -/
theorem Timing.farAt_of_placedAt (h : t.SpacedOk) (hp : t.PlacedAt now) : t.FarAt now := by
  intro a ha
  obtain ⟨-, hpending | ⟨-, start, hstart, hfar⟩⟩ := hp
  · exact h.spaced a now ha (by simp [Timing.nextStart, hpending])
  · obtain rfl : start = a := Option.some.inj (hstart.symm.trans ha)
    exact hfar

/-- A start that follows an input frame start at its own event is far enough, placed or overdue (R140, R144). -/
theorem Timing.farAt_of_startsNow (h : t.SpacedOk) (hd : t.startsNow now = true) : t.FarAt now := by
  rcases (t.startsNow_iff now).mp hd with ⟨-, hplaced⟩ | ⟨hs, -, hpending, start, hstart, hlate⟩
  · exact Timing.farAt_of_placedAt h hplaced
  · exact Timing.farAt_of_overdue h (.inr hs) ((t.overdue_iff now).mpr ⟨hpending, start, hstart, hlate⟩)

/-- Where the frame number stands there is no start to space. -/
theorem Timing.apart_of_frame (hf : u.frame = t.frame) : t.Apart u := fun _ _ _ _ hne => absurd hf hne

/-- A state whose latest start is far enough from the one before is spaced from it (R135). -/
theorem Timing.apart_of_farAt (h : t.FarAt now) (hu : u.latestStart = some now) : t.Apart u := by
  intro a b ha hb _
  obtain rfl : now = b := Option.some.inj (hu.symm.trans hb)
  exact h a ha

/-- An output frame start keeps the generator in STOPPED, or out of it (R144). -/
theorem Timing.stopped_startAt (t : Timing) (now : Nat) : (t.startAt now).state = .stopped ↔ t.state = .stopped := by
  simp only [Timing.startAt]
  split
  case h_5 hs => split <;> simp [hs]
  all_goals rfl

end

/-- The generator runs just while the device does, and its starts are spaced (R134, R135). -/
structure State.Paced (s : State) : Prop where
  clock : s.ClockOk
  spaced : s.timing.SpacedOk

/-- The later state keeps the clock and the spacing, and a start issued on the way is far enough from the one before. -/
structure State.Paces (s t : State) : Prop where
  paced : t.Paced
  apart : s.timing.Apart t.timing

/-- On the way to the later state no start is issued: the generator stands or takes its reset values, and it is STOPPED as
the device state asks. -/
structure State.Quiet (s t : State) : Prop where
  timing : t.timing = s.timing ∨ t.timing = resetTiming
  clock : s.ClockOk → t.ClockOk

section
variable {s t u : State}

/-- A change beside the generator and the device state. -/
theorem State.Quiet.of_same (ht : t.timing = s.timing := by simp) (hd : t.device.state = s.device.state := by simp) :
    s.Quiet t :=
  ⟨.inl ht, fun h => by rwa [State.ClockOk, ht, hd]⟩

/-- A change of the device state that leaves it at rest, or out of it. -/
theorem State.Quiet.of_atRest (hrest : t.atRest ↔ s.atRest) (ht : t.timing = s.timing := by simp) : s.Quiet t :=
  ⟨.inl ht, fun h => by
    rw [State.ClockOk, ht]
    exact Iff.trans h hrest.symm⟩

/-- One quiet change after another is quiet. -/
theorem State.Quiet.trans (h : s.Quiet t) (k : t.Quiet u) : s.Quiet u where
  timing := by
    rcases k.timing with hk | hk
    · rw [hk]
      exact h.timing
    · exact .inr hk
  clock := k.clock ∘ h.clock

/-- The reset values hold no start to come (R134). -/
theorem spacedOk_resetTiming : resetTiming.SpacedOk where
  started h := absurd rfl h
  spaced _ _ hs := nomatch hs
  scheduled _ _ hs := nomatch hs
  measured h := by simp [resetTiming] at h

/-- A quiet change keeps the clock and the spacing. -/
theorem State.Quiet.paces (h : s.Paced) (hq : s.Quiet t) : s.Paces t := by
  rcases hq.timing with ht | ht
  · exact ⟨⟨hq.clock h.clock, ht ▸ h.spaced⟩, Timing.apart_of_frame (by rw [ht])⟩
  · refine ⟨⟨hq.clock h.clock, ht ▸ spacedOk_resetTiming⟩, fun a b _ hb => ?_⟩
    rw [ht] at hb
    cases hb

/-! ### START, STOP, the resets and the host link (R177 to R185) -/

/-- A device reset stops the generator and the device (R183). -/
theorem quiet_deviceReset (s : State) : s.Quiet (deviceReset s) :=
  ⟨.inr rfl, fun _ => by simp [State.ClockOk, deviceReset, resetTiming, resetDevice]⟩

/-- A power-on reset stops the generator and the device (R184). -/
theorem quiet_powerOn (found : FoundMemory) (s : State) : s.Quiet (powerOn found s) :=
  (quiet_deviceReset s).trans (.of_same (t := ((deviceReset s).setLink _).setMemory _))

/-- A START in IDLE leaves the device at rest (R177). -/
theorem quiet_takeStart (s : State) : s.Quiet (takeStart s) := by
  refine .of_atRest ?_
  rw [takeStart]
  split
  · rename_i hi
    split <;> simp [State.atRest, hi, refuseArea, enterStarting]
  · rfl

/-- A STOP takes STARTING to IDLE and RUNNING to STOPPING (R179, R181). -/
theorem quiet_takeStop (s : State) : s.Quiet (takeStop s) := by
  refine .of_atRest ?_
  cases hs : s.device.state with
  | idle => simp [takeStop, hs]
  | starting => simp [State.atRest, takeStop, hs, leaveStarting]
  | running => simp [State.atRest, takeStop, hs, enterStopping]
  | stopping => simp [takeStop, hs]

/-- A register access issues no start (R185). -/
theorem quiet_performRegister (a : RegisterAccess) (s : State) : s.Quiet (performRegister a s) := by
  cases a with
  | start => exact quiet_takeStart s
  | stop => exact quiet_takeStop s
  | reset => exact quiet_deviceReset s
  | areaBase w =>
    simp only [performRegister]
    split <;> exact .of_same
  | notice w => exact .of_same (t := s.setLink _)
  | noticeEnable w => exact .of_same (t := s.setLink _)
  | ignored => exact .of_same (t := s)

/-- An access that the link delivers issues no start (R185). -/
theorem quiet_deliver (a : RegisterAccess) (s : State) : s.Quiet (deliver a s) := by
  rw [deliver]
  split
  · exact quiet_performRegister a s
  · exact .of_same

/-- Performing the register accesses delivered next issues no start (R185). -/
theorem quiet_drain (q : List LinkAccess) (s : State) : s.Quiet (drain q s) := by
  have held : ∀ (u : State) v, u.Quiet (u.setLink v) := fun _ _ => .of_same
  induction q generalizing s with
  | nil => exact held s _
  | cons a q ih =>
    cases a with
    | register a => exact ((held s _).trans (quiet_performRegister a _)).trans (ih _)
    | write address data => exact held s _
    | read address length got => exact held s _

/-- The host link's burst issues no start (R167, R185). -/
theorem quiet_hostBurst (s : State) : s.Quiet (hostBurst s) := by
  rw [hostBurst]
  split
  · exact .of_same
  · exact .of_same
  · simp only [hostWriteBurst]
    split
    · exact .trans .of_same (quiet_drain _ _)
    · exact .of_same
  · simp only [hostReadBurst]
    split
    · exact .trans .of_same (quiet_drain _ _)
    · exact .of_same

/-- A granted burst issues no start (R168). -/
theorem quiet_performBurst (size : Nat) (r : Requester) (s : State) : s.Quiet (performBurst size r s) := by
  cases r with
  | captureWriter => exact .of_same (t := captureBurst size s)
  | fetcher c => exact .of_same (t := fetchBurst size c s)
  | hostLink => exact quiet_hostBurst s
  | editionReader => exact .of_same (t := editionBurst size s)
  | statusWriter => exact .of_same (t := statusBurst s)

/-! ### The output frame start (R135, R182) -/

/-- The blocks' responses leave the generator, but for the start that ends a STOP (R147, R182). -/
theorem timing_blocksAtFrameStart (ending : Bool) (early : List (Fin 4)) (s : State) :
    (blocksAtFrameStart ending early s).timing = if ending then s.timing.stop else s.timing := by
  have stopped (v : State) : (endStop v).timing = v.timing.stop := by simp [endStop]
  cases ending <;> simp [blocksAtFrameStart, stopped]

/-- The blocks' responses leave the device state, but for the start that ends a STOP (R182). -/
theorem deviceState_blocksAtFrameStart (ending : Bool) (early : List (Fin 4)) (s : State) :
    (blocksAtFrameStart ending early s).device.state = if ending then .idle else s.device.state := by
  have stopped (v : State) : (endStop v).device.state = .idle := by simp [endStop]
  cases ending <;> simp [blocksAtFrameStart, stopped]

/-- The generator and the device state after an output frame start, which may be the one that ends a STOP (R135, R182). -/
theorem issueFrameStart_clock (now : Nat) (order : StartOrder) (s : State) :
    (issueFrameStart now order s).timing =
        (if s.ending then (s.timing.startAt now).stop else s.timing.startAt now) ∧
      (issueFrameStart now order s).device.state = if s.ending then .idle else s.device.state := by
  simp only [issueFrameStart]
  split <;> simp [timing_blocksAtFrameStart, deviceState_blocksAtFrameStart]

/-- An output frame start is the latest one from then on, at the end of a STOP too (R135, R147). -/
theorem latestStart_issueFrameStart (now : Nat) (order : StartOrder) (s : State) :
    (issueFrameStart now order s).timing.latestStart = some now := by
  obtain ⟨htiming, -⟩ := issueFrameStart_clock now order s
  obtain ⟨-, hlatest, -⟩ := s.timing.startAt_frame now
  rw [htiming]
  split <;> exact hlatest

/-- An output frame start keeps the clock and the spacing: the generator stops just where the device comes to IDLE (R182). -/
theorem paced_issueFrameStart (h : s.Paced) (now : Nat) (order : StartOrder) : (issueFrameStart now order s).Paced := by
  obtain ⟨htiming, hdevice⟩ := issueFrameStart_clock now order s
  have started : (s.timing.startAt now).SpacedOk := s.timing.spaced_startAt now h.spaced
  by_cases he : s.ending = true
  · rw [if_pos he] at htiming hdevice
    exact ⟨by simp [State.ClockOk, htiming, hdevice, Timing.stop], htiming ▸ Timing.spaced_stop _⟩
  · rw [if_neg he] at htiming hdevice
    refine ⟨?_, htiming ▸ started⟩
    rw [State.ClockOk, htiming, hdevice, Timing.stopped_startAt]
    exact h.clock

/-- The generator's own response `u`, which leaves the clock of `s`, and an output frame start where one is due and far enough
keep the clock and the spacing. -/
theorem paces_issueIf (hu : u.Paced) (hc : s.timing.SameClock u.timing) {due : Bool} {now : Nat}
    (hfar : due = true → s.timing.FarAt now) (order : StartOrder) : s.Paces (issueIf due now order u) := by
  rw [issueIf]
  split
  · rename_i hd
    exact ⟨paced_issueFrameStart hu now order, Timing.apart_of_farAt (hfar hd) (latestStart_issueFrameStart now order u)⟩
  · exact ⟨hu, Timing.apart_of_frame hc.frame⟩

/-- The generator replaced by one that is spaced and STOPPED just where it was keeps the clock and the spacing. -/
theorem paced_setTimingNoticed (h : s.Paced) {v : Timing} (hv : v.SpacedOk)
    (hs : v.state = .stopped ↔ s.timing.state = .stopped) : (setTimingNoticed v s).Paced := by
  refine ⟨?_, by simpa using hv⟩
  have hdevice : (setTimingNoticed v s).device = s.device := by simp
  rw [State.ClockOk, setTimingNoticed_timing, hdevice, hs]
  exact h.clock

/-! ### Every command and every step -/

section
variable (h : s.Paced)
include h

/-- A command beside the generator and the device state. -/
theorem paces_next_same (ht : t.timing = s.timing := by simp) (hd : t.device.state = s.device.state := by simp) :
    Result.Leads (.next t) s.Paces :=
  leads_next (State.Quiet.paces h (.of_same ht hd))

/-- INPUT_FRAME_START keeps the spacing, with the start that follows it at its own event (R136 to R144). -/
theorem paces_inputFrameStart (now : Nat) (order : StartOrder) : (execInputFrameStart now order s).Leads s.Paces := by
  have captured : (changeCapture Capture.onInput s).Paced := (State.Quiet.paces h .of_same).paced
  have responded := paced_setTimingNoticed captured (s.timing.spaced_onInput now h.spaced)
    (by simpa using s.timing.stopped_onInput now)
  exact leads_next (paces_issueIf responded (by simpa using s.timing.sameClock_onInput now)
    (Timing.farAt_of_startsNow h.spaced) order)

/-- OUTPUT_FRAME_START keeps the spacing: it comes when the placed or scheduled start does (R135). -/
theorem paces_outputFrameStart (order : StartOrder) : (execOutputFrameStart order s).Leads s.Paces := by
  rw [execOutputFrameStart]
  split
  · exact paces_next_same h
  · rename_i now hn
    exact leads_next (paces_issueIf h ⟨rfl, rfl, rfl, rfl, rfl, rfl⟩
      (fun _ => Timing.farAt_of_nextStart h.spaced hn) order)

/-- MISSING_START_DEADLINE keeps the spacing, with the start that is overdue (R143, R144). -/
theorem paces_missingStartDeadline (order : StartOrder) : (execMissingStartDeadline order s).Leads s.Paces := by
  rw [execMissingStartDeadline]
  split
  · exact paces_next_same h
  · rename_i d hd
    have hs : s.timing.state = .acquire ∨ s.timing.state = .locked := by
      by_contra hn
      simp [Timing.awaits, hn] at hd
    have running : s.timing.state ≠ .stopped := by rcases hs with hs | hs <;> simp [hs]
    have left := paced_setTimingNoticed h (s.timing.spaced_leaveLock d h.spaced hs)
      (iff_of_false (s.timing.leaveLock_not_stopped d) running)
    exact leads_next (paces_issueIf left (by simpa using s.timing.sameClock_leaveLock d)
      (Timing.farAt_of_overdue h.spaced hs) order)

/-- VALIDATION_DONE leaves the device at rest, or starts the generator and the device together (R147, R179, R180). -/
theorem paces_validationDone (now : Nat) (pins : BitVec 4) : (execValidationDone now pins s).Leads s.Paces := by
  rw [execValidationDone]
  split
  · rename_i hread
    have hs : s.device.state = .starting := by
      simp only [State.readsReturned, decide_eq_true_eq] at hread
      exact hread.1
    dsimp only
    split
    · have begun (hd : Header) (returned : List (StartBlock × List Byte)) :
          (enterRunning now pins hd returned s).timing = s.timing.begin hd now := by simp [enterRunning]
      refine leads_next ⟨⟨?_, ?_⟩, Timing.apart_of_frame (by rw [begun]; rfl)⟩
      · simp [State.ClockOk, begun, Timing.begin, (enterRunning_parts now pins _ _ s).1]
      · rw [begun]
        exact s.timing.spaced_begin _ now
    · exact leads_next (State.Quiet.paces h (.of_atRest (by simp [State.atRest, hs, refuseProfile])))
  · exact paces_next_same h

/-- CHECK_DONE stands beside the generator (R83). -/
theorem paces_checkDone : (execCheckDone s).Leads s.Paces := by
  rw [execCheckDone]
  split <;> exact paces_next_same h

/-- LOAD_DONE stands beside the generator (R89). -/
theorem paces_loadDone : (execLoadDone s).Leads s.Paces := by
  rw [execLoadDone]
  split <;> exact paces_next_same h

/-- PASSED_EDGE stands beside the generator (R91). -/
theorem paces_passedEdge : (execPassedEdge s).Leads s.Paces := by
  rw [execPassedEdge]
  split
  · exact paces_next_same h
  · split <;> exact paces_next_same h

/-- FORMAT_ANNOUNCEMENT does not reach the generator (R136). -/
theorem paces_formatAnnouncement (format : Format) : (execFormatAnnouncement format s).Leads s.Paces := by
  rw [execFormatAnnouncement]
  split <;> exact paces_next_same h

/-- FILL_DONE stands beside the generator (R123). -/
theorem paces_fillDone : (execFillDone s).Leads s.Paces := by
  rw [execFillDone]
  split <;> exact paces_next_same h

/-- HOST_WRITE is held, or stops past the end of frame memory (R167). -/
theorem paces_hostWrite (address : Nat) (data : List Byte) : (execHostWrite address data s).Leads s.Paces := by
  rw [execHostWrite]
  split
  · exact leads_fault _
  · split <;> exact paces_next_same h

/-- HOST_READ is held, or stops past the end of frame memory (R167). -/
theorem paces_hostRead (address length : Nat) : (execHostRead address length s).Leads s.Paces := by
  rw [execHostRead]
  split
  · exact leads_fault _
  · split <;> exact paces_next_same h

/-- LOSS_OF_LOCK stands beside the generator (R151). -/
theorem paces_lossOfLock (p : Fin 6) : (execLossOfLock p s).Leads s.Paces := by
  rw [execLossOfLock]
  split <;> exact paces_next_same h

/-- TRAINING_DONE stands beside the generator (R152). -/
theorem paces_trainingDone (p : Fin 6) (result : TrainingResult) : (execTrainingDone p result s).Leads s.Paces := by
  rw [execTrainingDone]
  split
  · split <;> exact paces_next_same h
  · exact paces_next_same h

/-- BURST_GRANT issues no start (R168, R169). -/
theorem paces_burstGrant (size : Nat) : (execBurstGrant size s).Leads s.Paces := by
  rw [execBurstGrant]
  split
  · exact paces_next_same h
  · exact leads_next (State.Quiet.paces h (.trans .of_same (quiet_performBurst size _ _)))

/-- RENDER_PIXEL stands beside the generator (R156). -/
theorem paces_renderPixel (c : Fin 6) : (execRenderPixel c s).Leads s.Paces := by
  rw [execRenderPixel]
  split <;> exact paces_next_same h

/-- PIXEL_DUE stands beside the generator (R157). -/
theorem paces_pixelDue (p : Fin 6) : (execPixelDue p s).Leads s.Paces := by
  rw [execPixelDue]
  split <;> exact paces_next_same h

/-- A register access that the link delivers keeps the spacing (R185). -/
theorem paces_deliver (a : RegisterAccess) : Result.Leads (.next (deliver a s)) s.Paces :=
  leads_next (State.Quiet.paces h (quiet_deliver a s))

end

/-- Every command keeps the clock and the spacing, and issues no start too early. -/
theorem paces_exec (h : s.Paced) (i : Instr) : Result.Leads (exec i s) s.Paces := by
  cases i with
  | start => exact paces_deliver h _
  | stop => exact paces_deliver h _
  | reset => exact paces_deliver h _
  | areaBaseWrite w => exact paces_deliver h _
  | noticeClear w => exact paces_deliver h _
  | noticeEnableWrite w => exact paces_deliver h _
  | registerWriteIgnored r w => exact paces_deliver h _
  | powerOnReset found => exact leads_next (State.Quiet.paces h (quiet_powerOn found s))
  | pciExpressLinkReset => exact paces_next_same h (t := linkReset s)
  | hostWrite address data => exact paces_hostWrite h address data
  | hostRead address length => exact paces_hostRead h address length
  | presenceChange format => exact paces_next_same h (t := followLink format s)
  | formatAnnouncement format => exact paces_formatAnnouncement h format
  | inputFrameStart time order => exact paces_inputFrameStart h time order
  | line pixels => exact paces_next_same h (t := changeCapture _ s)
  | fillDone => exact paces_fillDone h
  | outputFrameStart order => exact paces_outputFrameStart h order
  | missingStartDeadline order => exact paces_missingStartDeadline h order
  | validationDone time pins => exact paces_validationDone h time pins
  | checkDone => exact paces_checkDone h
  | loadDone => exact paces_loadDone h
  | passedEdge => exact paces_passedEdge h
  | filteredLevelChange l => exact paces_next_same h (t := filterChange l s)
  | holdOffExpiry l => exact paces_next_same h (t := holdOffExpiry l s)
  | presenceRise p => exact paces_next_same h (t := presenceRise p s)
  | presenceFall p => exact paces_next_same h (t := presenceFall p s)
  | lossOfLock p => exact paces_lossOfLock h p
  | trainingDone p result => exact paces_trainingDone h p result
  | attemptTimerExpiry p => exact paces_next_same h (t := attemptExpiry p s)
  | retryTimerExpiry p => exact paces_next_same h (t := retryExpiry p s)
  | burstGrant size => exact paces_burstGrant h size
  | renderPixel c => exact paces_renderPixel h c
  | pixelDue p => exact paces_pixelDue h p
  | sampleTick pins presence =>
    exact paces_next_same h (t := tickPorts presence (tickLines pins (settleTick s)))

end

/-- Settles O58: the clock and the spacing are kept command by command, and the command taken from the queue stands beside
them. -/
theorem spacingKept : Obligations.SpacingKept := by
  intro s t hclock hspaced hs
  have h : s.Paced := ⟨hclock, hspaced⟩
  have ht : s.Paces t := by
    rw [step] at hs
    split at hs
    · cases hs
      exact State.Quiet.paces h .of_same
    · rename_i rest _
      have taken : (s.setPending rest).Paces t := paces_exec (State.Quiet.paces h .of_same).paced _ t hs
      exact ⟨taken.paced, taken.apart⟩
  exact ⟨ht.paced.clock, ht.paced.spaced, fun a b _ ha hb hf => ht.apart a b ha hb hf⟩

/-! ## The measurement and the states at an input frame start (R137 to R144) -/

/-- Settles O14: the measurement is common to the states, and each state's response is one of the generator's operations. -/
theorem inputFrameStartTiming : Obligations.InputFrameStartTiming := by
  intro t now u good armed acquired
  have clock : t.SameClock u := t.sameClock_onInput now
  have entered (hu : u = (t.measure now).enterAcquire now) : acquired := by
    have sets := (t.measure now).enterAcquire_sets now
    rwa [← hu] at sets
  refine ⟨t.endsGood_iff now, Timing.onInput_of_stopped now, fun hs => ?measurement, fun hs hg hm => ?follow,
    fun hs hstay => ?stay, fun hs => ?count, fun hs hg => ?lock, fun hs hg => ?unlock, fun hs hg => ?regain,
    fun hs hg => ?hold⟩
  case measurement =>
    obtain ⟨hinput, hmeasured⟩ := t.measurement_onInput now hs
    exact ⟨hinput, fun last hl hg => hmeasured.trans (Timing.measured_of_good now hg hl),
      fun hg => hmeasured.trans (Timing.measured_of_bad hg), clock.period, clock.lockMode, clock.latency,
      clock.holdoverLimit, clock.frame, clock.latestStart⟩
  case follow => exact entered (Timing.onInput_of_free_follow now hs hg hm)
  case regain => exact entered (Timing.onInput_of_holdover_good now hs hg)
  case stay =>
    have hu : u = t.measure now := Timing.onInput_of_free_stay now hs hstay
    exact hu ▸ ⟨hs, rfl, rfl⟩
  case hold =>
    have hu : u = t.measure now := Timing.onInput_of_holdover_bad now hs hg
    exact hu ▸ ⟨hs, rfl, rfl⟩
  case count =>
    have hu : u = (((t.measure now).countRun good).arm now).place now := Timing.onInput_of_acquire now hs
    have hstate : u.state = ((t.measure now).countRun good).state := by simp [hu, Timing.arm]
    have hrun : u.goodRun = ((t.measure now).countRun good).goodRun := by simp [hu, Timing.arm]
    obtain ⟨bad, few, enough⟩ := (t.measure now).countRun_cases
    refine ⟨by simp [armed, hu, Timing.arm], fun hg => ?_, fun hg hn => ?_, fun hg hn => ?_⟩
    · rw [hstate, hrun, hg]
      exact ⟨bad.1.trans hs, bad.2⟩
    · rw [hstate, hrun, hg]
      exact ⟨(few hn).1.trans hs, (few hn).2⟩
    · rw [hstate, hrun, hg]
      exact enough hn
  case lock =>
    have hu : u = ((t.measure now).arm now).place now := Timing.onInput_of_locked_good now hs hg
    simp [armed, hu, Timing.arm, Timing.measure, hs]
  case unlock =>
    have hu : u = (t.measure now).leaveLock now := Timing.onInput_of_locked_bad now hs hg
    obtain ⟨kept, ahead⟩ := (t.measure now).nextScheduled_leaveLock now
    rw [Timing.cadence_of_bad now hg] at ahead
    exact hu ▸ ⟨rfl, rfl, rfl, rfl, rfl, kept, ahead⟩

/-! ## The placement test (R140) -/

/-- Settles O15: the three cases of the placement test, on what the input frame start has left as it was. -/
theorem placementTest : Obligations.PlacementTest := by
  intro t now h
  obtain ⟨v, hv, clock, hpending⟩ := Timing.onInput_eq_place now h
  have placed (s : Nat) (hp : t.pendingPlacement = none) (hs : t.latestStart = some s) :
      (t.onInput now).pendingPlacement =
        if s + t.period / 2 ≤ now + t.latency then some (now + t.latency) else none := by
    rw [hv, Timing.place_of_latest now (hpending.trans hp) (clock.latestStart.trans hs), clock.period, clock.latency]
  refine ⟨fun p hp => ?_, fun s hp hs hfar hle => ?_, fun s hp hs hnear => ?_⟩
  · rw [hv, Timing.place_of_pending now (hpending.trans hp), hpending, hp]
  · rw [placed s hp hs, if_pos (by omega)]
  · rw [placed s hp hs, if_neg (by omega)]

/-! ## An output frame start in the generator (R135, R138, R144) -/

/-- Settles O17: what is common to the timing states, then each of them. -/
theorem outputFrameStartTiming : Obligations.OutputFrameStartTiming := by
  intro t now u
  obtain ⟨hframe, hlatest, hpending, hmeasured, hinput, hdeadline, hperiod, hrun⟩ := t.startAt_frame now
  exact ⟨hframe, hlatest, hpending, hmeasured, hinput, hdeadline, hperiod, hrun, Timing.startAt_of_free now,
    Timing.startAt_of_following now,
    fun hs => ⟨Timing.holdoverCount_startAt now hs, Timing.startAt_of_last now hs, Timing.startAt_of_held now hs⟩⟩

/-! ## MISSING_START_DEADLINE (R143, R144) -/

/-- The deadline that stands is taken, and the overdue start follows it (R143). -/
theorem exec_missingStartDeadline {s : State} {d : Nat} (hs : s.timing.state = .acquire ∨ s.timing.state = .locked)
    (hd : s.timing.deadline = some d) (order : StartOrder) :
    exec (.missingStartDeadline order) s =
      .next (issueIf (s.timing.overdue d) d order (setTimingNoticed (s.timing.leaveLock d) s)) := by
  have awaited : s.timing.awaits = some d := by rw [Timing.awaits, if_pos hs, hd]
  show execMissingStartDeadline order s = _
  rw [execMissingStartDeadline, awaited]

/-- A generator that changes its timing state raises TIMING (R146). -/
theorem link_setTimingNoticed {v : Timing} {s : State} (h : v.state ≠ s.timing.state) :
    (setTimingNoticed v s).link = (raiseNotice .timing s).link := by
  simp [setTimingNoticed, raiseIf, h, raiseNotice]

/-- The generator's response changes the generator and NOTICE alone. -/
theorem sameBut_setTimingNoticed (v : Timing) (s : State) : State.sameBut [.link, .timing] s (setTimingNoticed v s) := by
  intro p hp
  cases p <;> simp [Part.same] at hp ⊢

/-- Settles O20: the state that the end of following leads to, and the start that follows it where it is overdue. -/
theorem missingStartDeadline : Obligations.MissingStartDeadline := by
  intro s d k hs hd
  obtain ⟨hstate, hdeadline, hrun, hcount, hmeasured, -, hpending⟩ := s.timing.leaveLock_frame d
  have clock := s.timing.sameClock_leaveLock d
  have left : (s.timing.leaveLock d).state ≠ s.timing.state := by
    rw [hstate]
    rcases hs with hs | hs <;> split <;> simp [hs]
  refine ⟨setTimingNoticed (s.timing.leaveLock d) s, sameBut_setTimingNoticed _ s, link_setTimingNoticed left, ?_⟩
  rw [setTimingNoticed_timing, exec_missingStartDeadline hs hd]
  refine ⟨hstate, hdeadline, hrun, hcount, hmeasured, clock.frame, clock.latestStart, hpending, fun p hp => ?kept,
    fun start hp hstart => ?unplaced⟩
  case kept =>
    have hnot : ¬ s.timing.overdue d = true := fun ho => by simp [((s.timing.overdue_iff d).mp ho).1] at hp
    rw [issueIf, if_neg hnot]
  case unplaced =>
    intro next
    have hover : s.timing.overdue d = true ↔ next ≤ d := by
      simp [Timing.overdue_iff, hp, hstart, next, Timing.cadence]
    refine ⟨fun hahead => ⟨?_, ?_⟩, fun hlate => ?_⟩
    · exact ((s.timing.nextScheduled_leaveLock d).2 start hp hstart).trans (if_pos hahead)
    · rw [issueIf, if_neg (fun ho => absurd (hover.mp ho) (Nat.not_le.mpr hahead))]
    · rw [issueIf, if_pos (hover.mpr hlate)]

end Sys2Proof.Machine

namespace Sys2Proof.Machine

/-! ## The projector link ports (R150 to R153, R156, R165) -/

/-! ### What stays, composed -/

/-- A claim that fewer parts stay. -/
theorem State.sameBut.mono {l m : List Part} {s t : State} (h : State.sameBut l s t) (hlm : l ⊆ m) :
    State.sameBut m s t :=
  fun part hpart => h part fun hmem => hpart (hlm hmem)

/-- What stays in each of two changes stays in both. -/
theorem State.sameBut.trans {l : List Part} {s t u : State} (h : State.sameBut l s t) (k : State.sameBut l t u) :
    State.sameBut l s u := by
  intro part hpart
  have first := h part hpart
  have second := k part hpart
  cases part <;> exact Eq.trans second first

/-! ### A change of one port -/

/-- A port changed: the function is applied to it. -/
theorem get_changePort_self (p : Fin 6) (f : Port → Port) (s : State) :
    (changePort p f s).ports.get p = f (s.ports.get p) := by
  rw [changePort_ports, Arr.get_modify_self]

/-- A port changed leaves the other ports. -/
theorem get_changePort_ne {p q : Fin 6} (h : q ≠ p) (f : Port → Port) (s : State) :
    (changePort p f s).ports.get q = s.ports.get q := by
  rw [changePort_ports, Arr.get_modify_ne _ _ _ _ h]

/-- A change of a port leaves all but the ports, the registers, the channels and the trigger lines. -/
theorem sameBut_changePort (p : Fin 6) (f : Port → Port) (s : State) :
    State.sameBut [.ports, .link, .channels, .triggers] s (changePort p f s) := by
  intro part hpart
  cases part <;> simp [Part.same] at hpart ⊢

/-- A stopped channel raises no notice (R156). -/
theorem link_leaveUp (before : LinkState) (p : Fin 6) (s : State) : (leaveUp before p s).link = s.link := by
  rw [leaveUp]
  split
  · rw [stopChannelOf]
    split <;> rfl
  · rfl

/-- A change of a port raises CHANNEL where its link state changes and the device is RUNNING or STOPPING (R165). -/
theorem noticed_changePort (p : Fin 6) (f : Port → Port) (s : State) :
    (changePort p f s).noticed .channel =
      (decide ((f (s.ports.get p)).state ≠ (s.ports.get p).state) && s.working || s.noticed .channel) := by
  have changed : (modifyPort p f s).ports.get p = f (s.ports.get p) := by rw [ports_modifyPort, if_pos rfl]
  have quiet : (modifyPort p f s).noticed .channel = s.noticed .channel := noticed_congr rfl _
  rw [changePort, noticed_settleAlt (by decide), noticed_congr (link_leaveUp _ _ _), noticed_raiseIf, changed, quiet,
    decide_eq_true rfl, Bool.and_true]

/-- The device works in RUNNING and in STOPPING. -/
theorem State.working_iff (s : State) : s.working = true ↔ s.device.state = .running ∨ s.device.state = .stopping := by
  simp [State.working]

/-- A change of a port touches no channel but that of the port (R156). -/
theorem get_channels_changePort_ne {p c : Fin 6} {s : State} (h : s.layout.channelOf p ≠ some c) (f : Port → Port) :
    (changePort p f s).channels.get c = s.channels.get c := by
  rw [channels_changePort]
  split
  · rw [channels_stopChannelOf, if_neg h]
  · rfl

/-- A port that leaves UP stops its channel (R156). -/
theorem get_channels_changePort_of_left {p c : Fin 6} {s : State} {f : Port → Port} (hup : (s.ports.get p).state = .up)
    (hleft : (f (s.ports.get p)).state ≠ .up) (h : s.layout.channelOf p = some c) :
    (changePort p f s).channels.get c = (s.channels.get c).halt := by
  rw [channels_changePort, if_pos ⟨hup, hleft⟩, channels_stopChannelOf, if_pos h]

/-- Whatever is done to a port, its change stays with the port, NOTICE, the port's channel and the trigger lines. -/
theorem portChange_changePort (p : Fin 6) (f : Port → Port) (s : State) : portChange p s (changePort p f s) := by
  obtain ⟨hbase, henable, hqueue⟩ :
      (changePort p f s).link.areaBase = s.link.areaBase ∧
        (changePort p f s).link.noticeEnable = s.link.noticeEnable ∧ (changePort p f s).link.queue = s.link.queue := by
    simp
  rw [portChange, get_changePort_self]
  refine ⟨(sameBut_changePort p f s).mono (by decide), fun q hq => get_changePort_ne hq f s, hbase, henable,
    hqueue, fun c hc => get_channels_changePort_ne hc f, fun hne hw => ?notice, fun hup hleft c hc => ?stopped,
    fun hstays => ?running⟩
  case notice =>
    rw [noticed_changePort, decide_eq_true hne.symm, (State.working_iff s).mpr hw]
    rfl
  case stopped =>
    rw [get_channels_changePort_of_left hup hleft hc]
    rfl
  case running =>
    rw [channels_changePort, if_neg fun ⟨hup, hleft⟩ => hstays.elim hleft fun hdown => hdown hup]

/-- A fault changes the fault record and NOTICE alone (R190). -/
theorem sameBut_takeFault (kind : FaultKind) (detail : Word) (s : State) :
    State.sameBut [.link, .status] s (takeFault kind detail s) := by
  intro part hpart
  cases part <;> simp [Part.same] at hpart ⊢

/-- A fault taken after a port's change is still a change of that port alone (R153, R190). -/
theorem portChange_takeFault {p : Fin 6} {s t : State} (h : portChange p s t) (kind : FaultKind) (detail : Word) :
    portChange p s (takeFault kind detail t) := by
  obtain ⟨hsame, hports, hbase, henable, hqueue, hchannels, hnotice, hstopped, hrunning⟩ := h
  have ports : (takeFault kind detail t).ports = t.ports := by simp
  have channels : (takeFault kind detail t).channels = t.channels := by simp
  rw [portChange, ports, channels, noticed_takeFault (by decide)]
  exact ⟨hsame.trans ((sameBut_takeFault kind detail t).mono (by decide)), hports, by simpa using hbase,
    by simpa using henable, by simpa using hqueue, hchannels, hnotice, hstopped, hrunning⟩

/-- What is known of a command whose whole effect is the change of a port: the change stays with the port, and no fault is
taken. -/
theorem exists_of_exec_changePort {c : Instr} {p : Fin 6} {f : Port → Port} {s : State}
    (h : exec c s = .next (changePort p f s)) :
    ∃ t, exec c s = .next t ∧ portChange p s t ∧ t.status = s.status ∧ t.ports.get p = f (s.ports.get p) :=
  ⟨_, h, portChange_changePort p f s, by simp, get_changePort_self p f s⟩

/-! ### The filtered presence (R150, R151) -/

/-- A presence rise starts an attempt at a DOWN port (R151). -/
theorem Port.rise_of_down {port : Port} (h : port.state = .down) : port.rise = (port.takePresence true).startAttempt := by
  rw [Port.rise, h]

/-- A presence rise at a port that is not DOWN is the filtered presence alone (R151). -/
theorem Port.rise_of_not_down {port : Port} (h : port.state ≠ .down) : port.rise = port.takePresence true := by
  rw [Port.rise]
  split
  · rename_i hdown
    exact absurd hdown h
  all_goals rfl

/-- PRESENCE_RISE where a rise is due (R150, R151). -/
theorem exec_presenceRise {s : State} {p : Fin 6} (hdue : (s.ports.get p).presenceDue = true)
    (hlow : (s.ports.get p).presence = false) : exec (.presenceRise p) s = .next (changePort p Port.rise s) :=
  congrArg Host.Outcome.next (if_pos ⟨hdue, hlow⟩)

/-- PRESENCE_FALL where a fall is due (R150, R151). -/
theorem exec_presenceFall {s : State} {p : Fin 6} (hdue : (s.ports.get p).presenceDue = true)
    (hhigh : (s.ports.get p).presence = true) :
    exec (.presenceFall p) s = .next (changePort p (fun port => (port.takePresence false).goDown 0) s) :=
  congrArg Host.Outcome.next (if_pos ⟨hdue, hhigh⟩)

/-- Settles O36: each command is a change of its port, a rise by whether the port is DOWN. -/
theorem presenceChanged : Obligations.PresenceChanged := by
  intro s p hworks hrun old
  have hdue : old.presenceDue = true := (Port.presenceDue_iff old).mpr ⟨hworks, hrun⟩
  refine ⟨fun hlow => ?rise, fun hhigh => exists_of_exec_changePort (exec_presenceFall hdue hhigh)⟩
  case rise =>
    obtain ⟨t, hexec, hchange, hstatus, hport⟩ := exists_of_exec_changePort (exec_presenceRise hdue hlow)
    exact ⟨t, hexec, hchange, hstatus, fun hdown => hport.trans (Port.rise_of_down hdown),
      fun hother => hport.trans (Port.rise_of_not_down hother)⟩

/-! ### Training (R151 to R153) -/

/-- An attempt is in progress in TRAINING, in the attempt phase (R152). -/
theorem Port.attempting_iff (port : Port) :
    port.attempting = true ↔ port.state = .training ∧ port.phase = some .attempt :=
  decide_eq_true_iff

/-- An attempt that starts in TRAINING leaves the link state (R152). -/
theorem Port.startAttempt_of_training {port : Port} (h : port.state = .training) :
    port.startAttempt =
      { port with phase := some .attempt, attempt := port.attempt + 1, attemptTimer := Config.attemptTicks } := by
  rw [Port.startAttempt, ← h]

/-- A failure before the third begins a retry wait (R152). -/
theorem Port.fail_of_lt {port : Port} (h : port.failures + 1 < 3) :
    port.fail =
      { port with failures := port.failures + 1, phase := some .retryWait, retryTimer := Config.retryTicks } :=
  if_pos h

/-- The third failure makes the port DOWN (R152). -/
theorem Port.fail_of_le {port : Port} (h : 3 ≤ port.failures + 1) : port.fail = port.goDown 3 :=
  if_neg (Nat.not_lt.mpr h)

/-- The port after a failed attempt, a LINK fault taken or not (R152, R153). -/
theorem get_failAttempt (p : Fin 6) (s : State) : (failAttempt p s).ports.get p = (s.ports.get p).fail := by
  rw [← get_changePort_self p Port.fail s, failAttempt]
  split <;> simp

/-- A failed attempt is a change of its port, with a fault at most (R152, R153). -/
theorem portChange_failAttempt (p : Fin 6) (s : State) : portChange p s (failAttempt p s) := by
  rw [failAttempt]
  split
  · exact portChange_takeFault (portChange_changePort p Port.fail s) .link _
  · exact portChange_changePort p Port.fail s

/-- A failure before the third takes no fault (R153). -/
theorem status_failAttempt_of_lt {p : Fin 6} {s : State} (h : (s.ports.get p).failures + 1 < 3) :
    (failAttempt p s).status = s.status := by
  rw [failAttempt, Port.lastChance, decide_eq_false (Nat.not_le.mpr h)]
  simp

/-- The third failure takes a LINK fault, its detail the port number (R153). -/
theorem status_failAttempt_of_le {p : Fin 6} {s : State} (h : 3 ≤ (s.ports.get p).failures + 1) :
    (failAttempt p s).status =
      { s.status with fault := s.status.fault.take .link (BitVec.ofNat 32 p.val) s.timing.frame } := by
  rw [failAttempt, Port.lastChance, decide_eq_true h]
  simp [takeFault_status]

/-- LOSS_OF_LOCK in UP (R151). -/
theorem exec_lossOfLock_of_up {s : State} {p : Fin 6} (h : (s.ports.get p).state = .up) :
    exec (.lossOfLock p) s = .next (changePort p Port.startAttempt s) :=
  if_pos h

/-- TRAINING_DONE of the attempt in progress (R152). -/
theorem exec_trainingDone_of_current {s : State} {p : Fin 6} (h : (s.ports.get p).attempting = true) (success : Bool) :
    exec (.trainingDone p ⟨(s.ports.get p).attempt, success⟩) s =
      .next (if success then changePort p Port.succeed s else failAttempt p s) :=
  if_pos ⟨h, rfl⟩

/-- ATTEMPT_TIMER_EXPIRY of an attempt whose timer has run down (R152). -/
theorem exec_attemptTimerExpiry {s : State} {p : Fin 6} (h : (s.ports.get p).attempting = true)
    (ht : (s.ports.get p).attemptTimer = 0) : exec (.attemptTimerExpiry p) s = .next (failAttempt p s) :=
  congrArg Host.Outcome.next (if_pos ⟨h, ht⟩)

/-- RETRY_TIMER_EXPIRY of a retry wait whose timer has run down (R152). -/
theorem exec_retryTimerExpiry {s : State} {p : Fin 6} (hs : (s.ports.get p).state = .training)
    (hp : (s.ports.get p).phase = some .retryWait) (ht : (s.ports.get p).retryTimer = 0) :
    exec (.retryTimerExpiry p) s = .next (changePort p Port.startAttempt s) :=
  congrArg Host.Outcome.next (if_pos ⟨hs, hp, ht⟩)

/-- Settles O37: each event is a change of its port; a failed attempt is one, whichever event ends it, with a fault at the
third failure. -/
theorem training : Obligations.Training := by
  intro s p old attempting
  have progress : attempting → old.attempting = true := (Port.attempting_iff old).mpr
  refine ⟨fun hup => exists_of_exec_changePort (exec_lossOfLock_of_up hup), fun hother => if_neg hother,
    fun ha => exists_of_exec_changePort (exec_trainingDone_of_current (progress ha) true), fun ha => ?failure,
    fun hs hp ht => ?retry, fun n success hnone => ?discarded⟩
  case failure =>
    have hport := get_failAttempt p s
    exact ⟨failAttempt p s, exec_trainingDone_of_current (progress ha) false, portChange_failAttempt p s,
      exec_attemptTimerExpiry (progress ha),
      fun hlt => ⟨status_failAttempt_of_lt hlt, hport.trans (Port.fail_of_lt hlt)⟩,
      fun hle => ⟨hport.trans (Port.fail_of_le hle), status_failAttempt_of_le hle⟩⟩
  case retry =>
    obtain ⟨t, hexec, hchange, hstatus, hport⟩ := exists_of_exec_changePort (exec_retryTimerExpiry hs hp ht)
    exact ⟨t, hexec, hchange, hstatus, hport.trans (Port.startAttempt_of_training hs)⟩
  case discarded =>
    have stale : ¬ (old.attempting = true ∧ old.attempt = n) := fun ⟨ha, hn⟩ =>
      hnone.elim (fun hno => hno ((Port.attempting_iff old).mp ha)) fun hne => hne hn.symm
    exact if_neg stale

end Sys2Proof.Machine

namespace Sys2Proof.Machine

-- As above: one proof is checked after another.
set_option Elab.async false

/-! ## Frame memory under errors (R171 to R173) -/

/-! ### A burst read (R171, R172) -/

/-- A byte of a burst read, by its place (R171, R172). -/
theorem Memory.getElem?_readBytes (m : Memory) (address : Nat) {length i : Nat} (hi : i < length) :
    (m.readBytes address length)[i]? = some (m.returned (address + i)) := by
  rw [Memory.readBytes, List.getElem?_map, List.getElem?_range hi]
  rfl

/-- The words that a read corrects are counted once each (R171). -/
theorem Memory.correctedIn_wordsOf (m : Memory) (address : Nat) {length : Nat} (h : 0 < length) :
    m.correctedIn (Memory.wordsOf address length) =
      ((Finset.Icc (address / 8) ((address + length - 1) / 8)).filter (fun w => m.errorAt w = some .single)).card := by
  have hset : (Finset.Icc (address / 8) ((address + length - 1) / 8)).filter (fun w => m.errorAt w = some .single) =
      ((Memory.wordsOf address length).filter (fun w => decide (m.errorAt w = some .single))).toFinset := by
    ext w
    simp [Memory.mem_wordsOf address length w h]
  rw [hset, List.toFinset_card_of_nodup ((Memory.wordsOf_nodup address length).filter _), Memory.correctedIn,
    List.countP_eq_length_filter]

/-- A read of sound words fails nowhere (R172). -/
theorem Memory.failingWord_of_sound {m : Memory} {words : List Nat} (h : ∀ w ∈ words, m.errorAt w ≠ some .uncorrectable) :
    m.failingWord words = none := by
  rw [Memory.failingWord, Option.map_eq_none_iff, List.find?_eq_none]
  exact fun w hw => by simpa using h w hw

/-- A read that meets errors fails at the lowest of the failing words (R172). -/
theorem Memory.failingWord_of_lowest {m : Memory} {words : List Nat} (hrise : words.Pairwise (· < ·)) {w : Nat}
    (hw : w ∈ words) (he : m.errorAt w = some .uncorrectable)
    (hlow : ∀ v ∈ words, v < w → m.errorAt v ≠ some .uncorrectable) : m.failingWord words = some (8 * w) := by
  have hfind : words.find? (fun w => decide (m.errorAt w = some .uncorrectable)) = some w :=
    find_least words _ hrise w hw (by simpa using he) fun v hv hlt => by simpa using hlow v hv hlt
  rw [Memory.failingWord, hfind]
  rfl

/-- A burst read changes the corrected count, the fault record and the registers alone (R171, R172). -/
theorem sameBut_afterRead (address length : Nat) (s : State) :
    State.sameBut [.memory, .status, .link] s (afterRead address length s) := by
  intro p hp
  cases p <;> simp [Part.same] at hp ⊢

/-- A read of sound words takes no fault (R172). -/
theorem afterRead_of_sound {s : State} {address length : Nat}
    (h : s.memory.failingWord (Memory.wordsOf address length) = none) :
    (afterRead address length s).status = s.status ∧ (afterRead address length s).link = s.link := by
  simp [afterRead, h]

/-- A read that fails takes one fault at its lowest failing word (R172). -/
theorem afterRead_of_failing {s : State} {address length a : Nat}
    (h : s.memory.failingWord (Memory.wordsOf address length) = some a) :
    (afterRead address length s).status =
      { s.status with fault := s.status.fault.take .memory (BitVec.ofNat 32 a) s.timing.frame } := by
  simp [afterRead, h, takeFault_status]

/-! ### The words of a write (R173) -/

/-- A write touches the words of its bytes (R173). -/
theorem Memory.mem_touched {cells : List (Nat × Byte)} {w : Nat} :
    w ∈ Memory.touched cells ↔ ∃ c ∈ cells, c.1 / 8 = w := by
  simp [Memory.touched]

/-- A write lists each word that it touches once (R173). -/
theorem Memory.nodup_touched (cells : List (Nat × Byte)) : (Memory.touched cells).Nodup := List.nodup_dedup _

/-- A write that leaves a byte of a word out does not cover the word, and the other way round (R173). -/
theorem Memory.coversWord_eq_false_iff (cells : List (Nat × Byte)) (w : Nat) :
    Memory.coversWord cells w = false ↔ ∃ i < 8, ∀ c ∈ cells, c.1 ≠ 8 * w + i := by
  simp only [Memory.coversWord, List.all_eq_false, List.any_eq_true, List.mem_range, decide_eq_true_eq, not_exists, not_and,
    ne_eq]

/-- A write whose bytes leave an address out does not cover the address's word (R173). -/
theorem Memory.coversWord_of_left_out {cells : List (Nat × Byte)} {a : Nat} (h : ∀ c ∈ cells, c.1 ≠ a) :
    Memory.coversWord cells (a / 8) = false :=
  (Memory.coversWord_eq_false_iff cells (a / 8)).mpr ⟨a % 8, Nat.mod_lt a (by decide), by rwa [Nat.div_add_mod]⟩

/-- The words that a write covers in part and that have a given error (R173). -/
def Memory.partWords (m : Memory) (cells : List (Nat × Byte)) (e : EccError) : List Nat :=
  (Memory.touched cells).filter (fun w => !Memory.coversWord cells w && decide (m.errorAt w = some e))

/-- The words covered in part are listed once each (R173). -/
theorem Memory.nodup_partWords (m : Memory) (cells : List (Nat × Byte)) (e : EccError) : (m.partWords cells e).Nodup :=
  (Memory.nodup_touched cells).filter _

/-- A word is covered in part where one of its bytes is stored and one is not (R173). -/
theorem Memory.mem_partWords {m : Memory} {cells : List (Nat × Byte)} {e : EccError} {w : Nat} :
    w ∈ m.partWords cells e ↔
      ((∃ c ∈ cells, c.1 / 8 = w) ∧ ∃ i < 8, ∀ c ∈ cells, c.1 ≠ 8 * w + i) ∧ m.errorAt w = some e := by
  rw [Memory.partWords, List.mem_filter, Memory.mem_touched, Bool.and_eq_true, Bool.not_eq_true',
    Memory.coversWord_eq_false_iff, decide_eq_true_eq, and_assoc]

/-- The faults of a write are taken for the words covered in part that have an uncorrectable error (R173, log 23). -/
theorem Memory.mergeFaults_eq (m : Memory) (cells : List (Nat × Byte)) :
    m.mergeFaults cells = (m.partWords cells .uncorrectable).map (8 * ·) := rfl

/-! ### The merge of one word (R173) -/

/-- A word made ready for a write: merged where it is covered in part, with fresh check bits (R173). -/
def Memory.mergeWord (cells : List (Nat × Byte)) (m : Memory) (w : Nat) : Memory :=
  (if Memory.coversWord cells w then m else m.merge w).clearError w

/-- A memory is made ready for a write word by word (R173). -/
theorem Memory.prepare_eq_foldl (m : Memory) (cells : List (Nat × Byte)) :
    m.prepare cells = (Memory.touched cells).foldl (Memory.mergeWord cells) m := rfl

/-- A word made ready has no error, and the others keep theirs (R173). -/
theorem Memory.errorAt_mergeWord (cells : List (Nat × Byte)) (m : Memory) (w v : Nat) :
    (Memory.mergeWord cells m w).errorAt v = if w = v then none else m.errorAt v := by
  have kept : (if Memory.coversWord cells w then m else m.merge w).errorAt v = m.errorAt v := by
    split <;> simp [Memory.errorAt]
  rw [Memory.mergeWord, Memory.errorAt_clearError, kept]

/-- A word made ready leaves the bytes of the other words (R173). -/
theorem Memory.read_mergeWord_of_ne (cells : List (Nat × Byte)) (m : Memory) {w a : Nat} (h : a / 8 ≠ w) :
    (Memory.mergeWord cells m w).read a = m.read a := by
  rw [Memory.mergeWord, Memory.clearError_read]
  split
  · rfl
  · exact Memory.read_merge_of_ne m w a h

/-- Zeros stored read as zeros (R173). -/
theorem Memory.read_writeAll_zero {l : List (Nat × Byte)} {a : Nat} (hz : ∀ c ∈ l, c.2 = 0)
    (hl : a < Config.frameMemoryBytes) (m : Memory) (h : m.read a = 0 ∨ ∃ c ∈ l, c.1 = a) :
    (m.writeAll l).read a = 0 := by
  induction l generalizing m with
  | nil => exact h.resolve_right fun ⟨c, hc, _⟩ => List.not_mem_nil hc
  | cons c l ih =>
    refine ih (fun d hd => hz d (List.mem_cons_of_mem c hd)) (m.write c.1 c.2) ?_
    have hc : c.2 = 0 := hz c List.mem_cons_self
    by_cases hca : c.1 = a
    · exact .inl (by rw [← hca, Memory.read_write m c.1 c.1 c.2 (hca ▸ hl), if_pos rfl, hc])
    · rw [Memory.read_write_ne m c.1 a c.2 hca]
      simpa [hca] using h

/-- A merge sets the bytes of a word with an uncorrectable error to zeros (R173). -/
theorem Memory.read_merge_of_uncorrectable {m : Memory} {a : Nat} (he : m.errorAt (a / 8) = some .uncorrectable)
    (hl : a < Config.frameMemoryBytes) : (m.merge (a / 8)).read a = 0 := by
  simp only [Memory.merge, he]
  refine Memory.read_writeAll_zero (fun c hc => ?_) hl m (.inr ⟨(a, 0), ?_, rfl⟩)
  · obtain ⟨i, -, rfl⟩ := List.mem_map.mp hc
    rfl
  · exact List.mem_map.mpr ⟨a % 8, List.mem_range.mpr (Nat.mod_lt a (by decide)), by rw [Nat.div_add_mod]⟩

/-- A byte stored changes no corrected count (R171). -/
theorem Memory.corrected_writeAll (m : Memory) (l : List (Nat × Byte)) : (m.writeAll l).corrected = m.corrected := by
  refine foldl_keeps Memory.corrected _ (fun m c => ?_) l m
  rw [Memory.write]
  split <;> rfl

/-- A word made ready is counted where it is covered in part and had a single-bit error (R173). -/
theorem Memory.corrected_mergeWord (cells : List (Nat × Byte)) (m : Memory) (w : Nat) :
    (Memory.mergeWord cells m w).corrected = m.corrected + BitVec.ofNat 32
      (if !Memory.coversWord cells w && decide (m.errorAt w = some .single) then 1 else 0) := by
  have clear : (Memory.mergeWord cells m w).corrected =
      (if Memory.coversWord cells w then m else m.merge w).corrected := rfl
  rw [clear]
  by_cases hc : Memory.coversWord cells w = true
  · simp [hc]
  · have merged : (m.merge w).corrected = m.corrected + BitVec.ofNat 32 (if m.errorAt w = some .single then 1 else 0) := by
      rw [Memory.merge]
      split
      case h_1 he => simp [he]
      case h_2 he => simp [he, Memory.countCorrected]
      case h_3 he => simp [he, Memory.corrected_writeAll]
    simp [hc, merged]

/-! ### The merges of a write (R173) -/

/-- A byte of a word with an uncorrectable error that a write covers in part is zero once the word is merged (R173). -/
theorem Memory.read_mergeAll_of_uncorrectable {cells : List (Nat × Byte)} {a : Nat}
    (hc : Memory.coversWord cells (a / 8) = false) (hl : a < Config.frameMemoryBytes) {ws : List Nat} (hw : a / 8 ∈ ws)
    (m : Memory) (he : m.errorAt (a / 8) = some .uncorrectable) : (ws.foldl (Memory.mergeWord cells) m).read a = 0 := by
  induction ws generalizing m with
  | nil => exact absurd hw List.not_mem_nil
  | cons w ws ih =>
    rw [List.foldl_cons]
    have herror := Memory.errorAt_mergeWord cells m w (a / 8)
    by_cases hwa : w = a / 8
    · have sound : (Memory.mergeWord cells m w).errorAt (a / 8) ≠ some .uncorrectable := by
        rw [herror, if_pos hwa]
        exact nofun
      have zeroed : (Memory.mergeWord cells m w).read a = 0 := by
        rw [hwa, Memory.mergeWord, hc]
        exact Memory.read_merge_of_uncorrectable he hl
      exact (Memory.read_mergeAll_of_sound cells ws _ a sound).trans zeroed
    · have later : a / 8 ∈ ws := (List.mem_cons.mp hw).resolve_left fun h => hwa h.symm
      exact ih later _ (by rw [herror, if_neg hwa, he])

/-- The merges of a write add the words covered in part that had a single-bit error to the corrected count (R173). -/
theorem Memory.corrected_mergeAll (cells : List (Nat × Byte)) {ws : List Nat} (hn : ws.Nodup) (m : Memory) :
    (ws.foldl (Memory.mergeWord cells) m).corrected = m.corrected + BitVec.ofNat 32
      (ws.countP (fun w => !Memory.coversWord cells w && decide (m.errorAt w = some .single))) := by
  induction ws generalizing m with
  | nil => simp
  | cons w ws ih =>
    obtain ⟨hw, hws⟩ := List.nodup_cons.mp hn
    have rest : ws.countP (fun v => !Memory.coversWord cells v &&
          decide ((Memory.mergeWord cells m w).errorAt v = some .single)) =
        ws.countP (fun v => !Memory.coversWord cells v && decide (m.errorAt v = some .single)) := by
      refine List.countP_congr fun v hv => ?_
      have hne : w ≠ v := fun h => hw (h ▸ hv)
      rw [Memory.errorAt_mergeWord, if_neg hne]
    rw [List.foldl_cons, ih hws, rest, Memory.corrected_mergeWord, List.countP_cons, BitVec.add_assoc, ← BitVec.ofNat_add,
      Nat.add_comm]

/-! ### A burst write (R173) -/

/-- Of a word without an uncorrectable error a write keeps the bytes it does not store (R173). -/
theorem Memory.read_writeBurst_of_kept {m : Memory} {cells : List (Nat × Byte)} {a : Nat} (h : ∀ c ∈ cells, c.1 ≠ a)
    (he : m.errorAt (a / 8) ≠ some .uncorrectable) : (m.writeBurst cells).read a = m.read a :=
  (Memory.read_writeAll_of_notMem _ cells a h).trans (Memory.read_mergeAll_of_sound cells _ m a he)

/-- Of a touched word with an uncorrectable error the bytes a write does not store become 0 (R173). -/
theorem Memory.read_writeBurst_of_lost {m : Memory} {cells : List (Nat × Byte)} {a : Nat}
    (hl : a < Config.frameMemoryBytes) (h : ∀ c ∈ cells, c.1 ≠ a) (ht : a / 8 ∈ Memory.touched cells)
    (he : m.errorAt (a / 8) = some .uncorrectable) : (m.writeBurst cells).read a = 0 :=
  (Memory.read_writeAll_of_notMem _ cells a h).trans
    (Memory.read_mergeAll_of_uncorrectable (Memory.coversWord_of_left_out h) hl ht m he)

/-- A write adds the words it covers in part that had a single-bit error to the corrected count (R173). -/
theorem Memory.corrected_writeBurst (m : Memory) (cells : List (Nat × Byte)) :
    (m.writeBurst cells).corrected = m.corrected + BitVec.ofNat 32 (m.partWords cells .single).length := by
  rw [Memory.writeBurst, Memory.corrected_writeAll, Memory.prepare_eq_foldl,
    Memory.corrected_mergeAll cells (Memory.nodup_touched cells), List.countP_eq_length_filter]
  rfl

/-- A write takes one fault for each word it covers in part that had an uncorrectable error (R173, log 23). -/
theorem afterWrite_eq_foldl (cells : List (Nat × Byte)) (s : State) :
    afterWrite cells s = (s.memory.partWords cells .uncorrectable).foldl
      (fun x w => takeFault .memory (BitVec.ofNat 32 (8 * w)) x) (s.setMemory (s.memory.writeBurst cells)) := by
  rw [afterWrite, Memory.mergeFaults_eq, List.foldl_map]

/-- Settles O48: a read by the words it touches, a write byte by byte and by the words it covers in part. -/
theorem memoryAccess : Obligations.MemoryAccess := by
  intro s address length cells hpos m words t n
  have hwords : ∀ w, w ∈ Memory.wordsOf address length ↔ w ∈ words := fun w => Memory.mem_wordsOf address length w hpos
  refine ⟨length_readBytes m address length, fun i hi => Memory.getElem?_readBytes m address hi,
    sameBut_afterRead address length s, by simp [t, m], by simp [t, m], ?corrected, fun hsound => ?sound,
    fun w hw he hlow => ?failing, fun hn c hc hl => Memory.read_writeAll_of_mem cells _ hn c hc hl, fun a ha hkept => ?kept,
    fun a hl ha ht he => Memory.read_writeBurst_of_lost hl ha (Memory.mem_touched.mpr ht) he, fun c hc => ?fresh,
    fun w hw => ?other, ?faults⟩
  case corrected =>
    rw [← Memory.correctedIn_wordsOf m address hpos]
    exact congrArg Memory.corrected (afterRead_memory address length s)
  case sound => exact afterRead_of_sound (Memory.failingWord_of_sound fun w hw => hsound w ((hwords w).mp hw))
  case failing =>
    exact afterRead_of_failing (Memory.failingWord_of_lowest (Memory.wordsOf_rise address length) ((hwords w).mpr hw) he
      fun v hv => hlow v ((hwords v).mp hv))
  case kept =>
    rcases hkept with huntouched | hsound
    · exact Memory.read_writeBurst_of_word m cells a huntouched
    · exact Memory.read_writeBurst_of_kept ha hsound
  case fresh => exact (Memory.errorAt_writeBurst m cells _).trans (if_pos (Memory.mem_touched.mpr ⟨c, hc, rfl⟩))
  case other =>
    have untouched : w ∉ Memory.touched cells := fun h => by
      obtain ⟨c, hc, hcw⟩ := Memory.mem_touched.mp h
      exact hw c hc hcw
    exact (Memory.errorAt_writeBurst m cells w).trans (if_neg untouched)
  case faults =>
    refine ⟨sameBut_afterWrite cells s.status.queue s, afterWrite_memory cells s,
      ⟨(m.partWords cells .single).toFinset, fun w => List.mem_toFinset.trans Memory.mem_partWords, ?_⟩,
      m.partWords cells .uncorrectable, m.nodup_partWords cells .uncorrectable, fun w => Memory.mem_partWords,
      afterWrite_eq_foldl cells s⟩
    rw [List.toFinset_card_of_nodup (m.nodup_partWords cells .single)]
    exact m.corrected_writeBurst cells

end Sys2Proof.Machine

namespace Sys2Proof.Machine

-- As above: one proof is checked after another.
set_option Elab.async false

/-! ## The host link (R167, R185) -/

/-! ### Accesses in the order delivered (R167, R185) -/

/-- An access runs past the end where it reaches beyond the last byte of frame memory (R167). -/
theorem pastEnd_iff (address length : Nat) : pastEnd address length = true ↔ 2147483648 < address + length :=
  decide_eq_true_iff

section

variable {s : State} {address length : Nat} {data : List Byte}

/-- A host write within frame memory is held (R167). -/
theorem exec_hostWrite_of_fits (hd : data ≠ []) (h : address + data.length ≤ 2147483648) :
    exec (.hostWrite address data) s = .next (delay (.write address data) s) := by
  have fits : ¬ pastEnd address data.length = true := fun hp => absurd ((pastEnd_iff _ _).mp hp) (Nat.not_lt.mpr h)
  simp only [exec, execHostWrite, if_neg fits, if_neg hd]

/-- A host read within frame memory is held (R167). -/
theorem exec_hostRead_of_fits (hl : 0 < length) (h : address + length ≤ 2147483648) :
    exec (.hostRead address length) s = .next (delay (.read address length []) s) := by
  have fits : ¬ pastEnd address length = true := fun hp => absurd ((pastEnd_iff _ _).mp hp) (Nat.not_lt.mpr h)
  simp only [exec, execHostRead, if_neg fits, if_neg hl.ne']

/-- A host write past the end stops (R167, log 26). -/
theorem exec_hostWrite_of_pastEnd (h : 2147483648 < address + data.length) :
    exec (.hostWrite address data) s = .fault (.outsideFrameMemory address data.length) :=
  if_pos ((pastEnd_iff _ _).mpr h)

/-- A host read past the end stops (R167, log 26). -/
theorem exec_hostRead_of_pastEnd (h : 2147483648 < address + length) :
    exec (.hostRead address length) s = .fault (.outsideFrameMemory address length) :=
  if_pos ((pastEnd_iff _ _).mpr h)

/-- A host access of no bytes does nothing (R167, log 26). -/
theorem exec_hostAccess_of_empty (h : address ≤ 2147483648) :
    exec (.hostWrite address []) s = .next s ∧ exec (.hostRead address 0) s = .next s := by
  have fits : ¬ pastEnd address 0 = true := fun hp => absurd ((pastEnd_iff _ _).mp hp) (Nat.not_lt.mpr h)
  exact ⟨if_neg fits, if_neg fits⟩

/-- A register access is held while an access delivered before it is (R185, log 7). -/
theorem deliver_of_waiting (h : s.link.queue ≠ []) (a : RegisterAccess) : deliver a s = delay (.register a) s := if_neg h

/-- A register access is performed at once on an idle link (R185). -/
theorem deliver_of_idle (h : s.link.queue = []) (a : RegisterAccess) : deliver a s = performRegister a s := if_pos h

end

/-- Settles O39: a host access by where it ends, a register access by whether the link is idle. -/
theorem linkOrder : Obligations.LinkOrder := by
  intro s address length data r w behind
  refine ⟨exec_hostWrite_of_fits, exec_hostRead_of_fits, exec_hostWrite_of_pastEnd, exec_hostRead_of_pastEnd,
    exec_hostAccess_of_empty, fun hidle => ?idle, fun hwaiting => ?waiting⟩
  case idle => exact congrArg Host.Outcome.next (deliver_of_idle hidle .ignored)
  case waiting =>
    have held (a : RegisterAccess) : (.next (deliver a s) : Result) = behind (.register a) :=
      congrArg Host.Outcome.next (deliver_of_waiting hwaiting a)
    exact ⟨held .start, held .stop, held .reset, held (.areaBase w), held (.notice w), held (.noticeEnable w), held .ignored⟩

/-! ### The burst at the grant (R167, R168) -/

/-- A grant to the host link is performed for its first access, and leaves the arbiter (R167, R169). -/
theorem exec_burstGrant_of_hostLink {s : State} (h : nextGrant s = some .hostLink) (size : Nat) :
    exec (.burstGrant size) s = .next (hostBurst s) :=
  execBurstGrant_of_grant h size

section

variable {s : State} {address length : Nat} {data got : List Byte} {rest : List LinkAccess}

/-- A host write that goes beyond its block leaves the rest in front (R167, R168). -/
theorem hostBurst_of_write_part (hq : s.link.queue = .write address data :: rest)
    (h : blockPiece address data.length < data.length) :
    hostBurst s = (afterWrite (placed address (data.take (blockPiece address data.length))) s).setLink
      { (afterWrite (placed address (data.take (blockPiece address data.length))) s).link with
        queue := .write (address + blockPiece address data.length) (data.drop (blockPiece address data.length)) :: rest } := by
  simp only [hostBurst, hq, hostWriteBurst, if_neg (Nat.not_le.mpr h)]

/-- A host write that ends in its block is complete (R167, R168). -/
theorem hostBurst_of_write_whole (hq : s.link.queue = .write address data :: rest)
    (h : blockPiece address data.length = data.length) :
    hostBurst s = drain rest (afterWrite (placed address data) s) := by
  simp only [hostBurst, hq, hostWriteBurst, h, le_refl, if_true, List.take_length]

/-- A host read that goes beyond its block leaves the rest in front, with the bytes taken (R167, R168). -/
theorem hostBurst_of_read_part (hq : s.link.queue = .read address length got :: rest)
    (h : blockPiece address length < length) :
    hostBurst s = (afterRead address (blockPiece address length) s).setLink
      { (afterRead address (blockPiece address length) s).link with
        queue := .read (address + blockPiece address length) (length - blockPiece address length)
          (got ++ s.memory.readBytes address (blockPiece address length)) :: rest } := by
  simp only [hostBurst, hq, hostReadBurst, if_neg (Nat.not_le.mpr h)]

/-- A host read that ends in its block returns its bytes (R167, R168). -/
theorem hostBurst_of_read_whole (hq : s.link.queue = .read address length got :: rest)
    (h : blockPiece address length = length) :
    hostBurst s = drain rest ((afterRead address (blockPiece address length) s).setLink
      { (afterRead address (blockPiece address length) s).link with
        lastRead := some ⟨address - got.length, got ++ s.memory.readBytes address (blockPiece address length)⟩ }) := by
  simp only [hostBurst, hq, hostReadBurst, h, le_refl, if_true]

end

/-- A change of the link registers after a burst leaves what the burst leaves but these. -/
theorem State.sameBut.setLink {s t : State} (h : State.sameBut [.memory, .status, .link] s t) (v : LinkEndpoint) :
    State.sameBut [.link, .memory, .status] s (t.setLink v) := by
  intro p hp
  have kept := h.mono (by decide) p hp
  cases p with
  | link => exact absurd List.mem_cons_self hp
  | _ => exact kept

/-- A memory access at the head of the queue ends the performing of register accesses (R185, log 7). -/
theorem drain_of_memory {a : LinkAccess} (h : a.isMemory = true) (rest : List LinkAccess) (t : State) :
    drain (a :: rest) t = t.setLink { t.link with queue := a :: rest } := by
  cases a with
  | write address data => rfl
  | read address length got => rfl
  | register a => cases h

/-- Settles O40: a write and a read, each by whether it ends in the block of its first byte; then the register accesses. -/
theorem hostBurst_spec : Obligations.HostBurst := by
  intro s size address length data got rest hg piece taken
  have granted := exec_burstGrant_of_hostLink hg size
  refine ⟨fun hq => ⟨fun hpart => ?writePart, fun hwhole => ?writeWhole⟩,
    fun hq => ⟨fun hpart => ?readPart, fun hwhole => ?readWhole⟩, fun t => rfl, fun t a ha => drain_of_memory ha rest t,
    fun t a => rfl⟩
  case writePart =>
    have hburst := hostBurst_of_write_part hq hpart
    refine ⟨hostBurst s, granted, ?_, ?_, ?_⟩
    · rw [hburst]
      exact (sameBut_afterWrite _ s.status.queue s).setLink _
    · rw [hburst]
      exact afterWrite_memory _ s
    · rw [hburst]
      rfl
  case writeWhole => exact granted.trans (congrArg Host.Outcome.next (hostBurst_of_write_whole hq hwhole))
  case readPart =>
    have hburst := hostBurst_of_read_part hq hpart
    refine ⟨hostBurst s, granted, ?_, fun a => ?_, ?_⟩
    · rw [hburst]
      exact (sameBut_afterRead address _ s).setLink _
    · rw [hburst]
      exact afterRead_read address _ s a
    · rw [hburst]
      rfl
  case readWhole =>
    exact ⟨_, granted.trans (congrArg Host.Outcome.next (hostBurst_of_read_whole hq hwhole)),
      (sameBut_afterRead address _ s).setLink _, fun a => afterRead_read address _ s a, rfl⟩

/-! ## The Fetch Arbiter's order (R168, R169) -/

/-! ### Who waits (R168) -/

/-- The capture writer waits while the pixel at the head of the FIFO has its slot (R122, R168). -/
theorem waits_captureWriter_iff (s : State) :
    waits s .captureWriter = true ↔ ∃ p rest, s.capture.fifo = p :: rest ∧ p.slot.isSome = true := by
  rw [waits]
  cases s.capture.fifo with
  | nil => simp [captureWaits]
  | cons p rest => simp [captureWaits]

/-- The host link waits while its first access is one of frame memory (R167, R168). -/
theorem waits_hostLink_iff (s : State) :
    waits s .hostLink = true ↔ ∃ a rest, s.link.queue = a :: rest ∧ a.isMemory = true := by
  rw [waits]
  cases s.link.queue with
  | nil => simp [hostWaits]
  | cons a rest => simp [hostWaits]

/-! ### Who is granted (R169) -/

/-- The share counter is full at 2^k (R169). -/
theorem Arbiter.shareFull_iff (a : Arbiter) : a.shareFull = true ↔ a.share = 2 ^ a.exponent := decide_eq_true_iff

/-- The edition reader waits with the share counter full, so that it comes before the fetchers (R169). -/
def State.editionFirst (s : State) : Prop := waits s .editionReader = true ∧ s.arbiter.share = 2 ^ s.arbiter.exponent

/-- No fetcher is chosen while none waits (R169). -/
theorem nextFetcher_of_none {s : State} (h : ∀ c, ¬ waits s (.fetcher c) = true) : nextFetcher s = none :=
  List.find?_eq_none.mpr fun c _ => h c

section

variable {s : State}

/-- The edition reader's share comes next after the capture writer (R169). -/
theorem nextGrant_of_editionFirst (hc : ¬ waits s .captureWriter = true) (he : s.editionFirst) :
    nextGrant s = some .editionReader := by
  have first : (waits s .editionReader && s.arbiter.shareFull) = true :=
    Bool.and_eq_true_iff.mpr ⟨he.1, s.arbiter.shareFull_iff.mpr he.2⟩
  rw [nextGrant, if_neg hc, if_pos first]

/-- Where the edition reader does not come first, its share does not decide the grant (R169). -/
theorem not_editionShare (he : ¬ s.editionFirst) : ¬ (waits s .editionReader && s.arbiter.shareFull) = true := fun h => by
  obtain ⟨hw, hs⟩ := Bool.and_eq_true_iff.mp h
  exact he ⟨hw, s.arbiter.shareFull_iff.mp hs⟩

/-- The fetcher chosen comes next after the edition reader's share (R169). -/
theorem nextGrant_of_fetcher (hc : ¬ waits s .captureWriter = true) (he : ¬ s.editionFirst) {c : Fin 6}
    (hf : nextFetcher s = some c) : nextGrant s = some (.fetcher c) := by
  simp only [nextGrant, if_neg hc, if_neg (not_editionShare he), hf]

/-- With no fetcher waiting the host link, the edition reader and the status writer follow (R169). -/
theorem nextGrant_of_no_fetcher (hc : ¬ waits s .captureWriter = true) (he : ¬ s.editionFirst)
    (hf : nextFetcher s = none) :
    nextGrant s =
      if waits s .hostLink then some .hostLink
      else if waits s .editionReader then some .editionReader
      else if waits s .statusWriter then some .statusWriter
      else none := by
  simp only [nextGrant, if_neg hc, if_neg (not_editionShare he), hf]

end

/-- A fetcher's grant moves the pointer, and a full share counter stays (R169). -/
theorem Arbiter.grantTo_fetcher_of_full {a : Arbiter} (h : a.share = 2 ^ a.exponent) (c : Fin 6) :
    a.grantTo (.fetcher c) = { a with pointer := c } := by
  rw [Arbiter.grantTo, if_pos (a.shareFull_iff.mpr h)]

/-- A fetcher's grant moves the pointer, and raises a share counter that is not full (R169). -/
theorem Arbiter.grantTo_fetcher_of_not_full {a : Arbiter} (h : ¬ a.share = 2 ^ a.exponent) (c : Fin 6) :
    a.grantTo (.fetcher c) = { a with pointer := c, share := a.share + 1 } := by
  rw [Arbiter.grantTo, if_neg fun hf => h (a.shareFull_iff.mp hf)]

/-- Settles O41: who waits, then the requesters in the order in which they are granted. -/
theorem grantOrder : Obligations.GrantOrder := by
  intro s size a full capture edition fetcher host granted
  have grant {r : Requester} {b : Arbiter} (hr : nextGrant s = some r) (hb : a.grantTo r = b) : granted r b :=
    hb ▸ execBurstGrant_of_grant hr size
  refine ⟨waits_captureWriter_iff s, fun c => Option.isSome_iff_exists, waits_hostLink_iff s, Option.isSome_iff_exists,
    decide_eq_true_iff, fun hc => grant (if_pos hc) rfl,
    fun hc he hf => grant (nextGrant_of_editionFirst hc ⟨he, hf⟩) rfl, fun hc he c hw hfirst => ?fetchers,
    fun hc he hnone => ?others⟩
  case fetchers =>
    have chosen : nextGrant s = some (.fetcher c) := nextGrant_of_fetcher hc he (nextFetcher_eq s c hw hfirst)
    exact ⟨fun hf => grant chosen (Arbiter.grantTo_fetcher_of_full hf c),
      fun hf => grant chosen (Arbiter.grantTo_fetcher_of_not_full hf c)⟩
  case others =>
    have order := nextGrant_of_no_fetcher hc he (nextFetcher_of_none hnone)
    refine ⟨fun hh => grant (order.trans (if_pos hh)) rfl, fun hh hed => ?_, fun hh hed hs => ?_⟩
    · exact grant (order.trans ((if_neg hh).trans (if_pos hed))) rfl
    · exact grant (order.trans ((if_neg hh).trans ((if_neg hed).trans (if_pos (decide_eq_true hs))))) rfl

end Sys2Proof.Machine

namespace Sys2Proof.Machine

/-! ## The hard-wired register bits (R171, R185, R186) -/

/-- Bits 31 to 7 of NOTICE, which no notice group has (R186). -/
def LinkEndpoint.fixedNotice (l : LinkEndpoint) : Word := l.notice &&& 0xFFFFFF80#32

/-- Every notice group has one of the bits 6 to 0 (R186). -/
theorem NoticeGroup.mask_fixed (g : NoticeGroup) : g.mask &&& 0xFFFFFF80#32 = 0#32 := by
  cases g <;> rfl

/-! ### What the part does leaves bits 31 to 7 of NOTICE -/

@[simp] theorem fixedNotice_raiseNotice (g : NoticeGroup) (s : State) :
    (raiseNotice g s).link.fixedNotice = s.link.fixedNotice := by
  rw [LinkEndpoint.fixedNotice, raiseNotice, State.setLink_link, BitVec.and_comm, BitVec.and_or_distrib_left,
    BitVec.and_comm _ g.mask, g.mask_fixed, BitVec.or_zero, BitVec.and_comm, LinkEndpoint.fixedNotice]

/-- What each step of a fold leaves, the fold leaves. -/
@[simp] theorem fixedNotice_foldl {α : Type} {f : State → α → State}
    (h : ∀ t a, (f t a).link.fixedNotice = t.link.fixedNotice) (l : List α) (s : State) :
    (l.foldl f s).link.fixedNotice = s.link.fixedNotice :=
  foldl_keeps (fun t : State => t.link.fixedNotice) f h l s

/-- What both branches leave, the choice leaves. -/
@[simp] theorem fixedNotice_ite (p : Prop) [Decidable p] (t u : State) :
    (if p then t else u).link.fixedNotice = if p then t.link.fixedNotice else u.link.fixedNotice :=
  apply_ite (fun s : State => s.link.fixedNotice) p t u

@[simp] theorem fixedNotice_raiseIf (r : Bool) (g : NoticeGroup) (s : State) :
    (raiseIf r g s).link.fixedNotice = s.link.fixedNotice := by
  simp [raiseIf]

@[simp] theorem fixedNotice_takeFault (kind : FaultKind) (detail : Word) (s : State) :
    (takeFault kind detail s).link.fixedNotice = s.link.fixedNotice := by
  simp [takeFault]

@[simp] theorem fixedNotice_afterRead (address length : Nat) (s : State) :
    (afterRead address length s).link.fixedNotice = s.link.fixedNotice := by
  simp only [afterRead]
  split <;> simp

@[simp] theorem fixedNotice_afterControlRead (offset length : Nat) (s : State) :
    (afterControlRead offset length s).link.fixedNotice = s.link.fixedNotice :=
  fixedNotice_afterRead _ _ s

@[simp] theorem fixedNotice_afterWrite (cells : List (Nat × Byte)) (s : State) :
    (afterWrite cells s).link.fixedNotice = s.link.fixedNotice := by
  simp [afterWrite]

/-! ### The Bay Controller (R75 to R96) -/

@[simp] theorem fixedNotice_changeBay (b : Fin 8) (f : Bay → Bay) (fields : List (Nat × Nat × Nat)) (s : State) :
    (changeBay b f fields s).link.fixedNotice = s.link.fixedNotice := by
  simp [changeBay]

@[simp] theorem fixedNotice_setBayState (b : Fin 8) (k : BayState) (s : State) :
    (setBayState b k s).link.fixedNotice = s.link.fixedNotice := by
  simp [setBayState]

@[simp] theorem fixedNotice_releaseBay (b : Fin 8) (s : State) :
    (releaseBay b s).link.fixedNotice = s.link.fixedNotice := by
  simp [releaseBay]

@[simp] theorem fixedNotice_rejectBay (b : Fin 8) (reason : RejectReason) (index : Nat) (s : State) :
    (rejectBay b reason index s).link.fixedNotice = s.link.fixedNotice := by
  simp [rejectBay]

@[simp] theorem fixedNotice_verifyBay (b : Fin 8) (summary : CheckSummary) (points : Nat) (s : State) :
    (verifyBay b summary points s).link.fixedNotice = s.link.fixedNotice := by
  simp [verifyBay]

@[simp] theorem fixedNotice_supersede (b : Fin 8) (s : State) :
    (supersede b s).link.fixedNotice = s.link.fixedNotice := by
  simp [supersede]

@[simp] theorem fixedNotice_startLoad (b : Fin 8) (s : State) :
    (startLoad b s).link.fixedNotice = s.link.fixedNotice := by
  simp [startLoad]

@[simp] theorem fixedNotice_giveGo (b : Fin 8) (s : State) :
    (giveGo b s).link.fixedNotice = s.link.fixedNotice := by
  rw [giveGo]
  split <;> simp

@[simp] theorem fixedNotice_startCheck (s : State) :
    (startCheck s).link.fixedNotice = s.link.fixedNotice := by
  rw [startCheck]
  split
  · split <;> simp
  · rfl

@[simp] theorem fixedNotice_goAtCheckDone (b : Fin 8) (s : State) :
    (goAtCheckDone b s).link.fixedNotice = s.link.fixedNotice := by
  simp [goAtCheckDone]

@[simp] theorem fixedNotice_applyCheck (w : Walk) (result : WalkResult) (s : State) :
    (applyCheck w result s).link.fixedNotice = s.link.fixedNotice := by
  cases result <;> simp [applyCheck]

@[simp] theorem fixedNotice_applyLoad (w : Walk) (result : WalkResult) (s : State) :
    (applyLoad w result s).link.fixedNotice = s.link.fixedNotice := by
  cases result <;> simp [applyLoad]

@[simp] theorem fixedNotice_retireLive (previous : Option (Fin 8)) (s : State) :
    (retireLive previous s).link.fixedNotice = s.link.fixedNotice := by
  cases previous <;> simp [retireLive]

@[simp] theorem fixedNotice_exchange (s : State) :
    (exchange s).link.fixedNotice = s.link.fixedNotice := by
  rw [exchange]
  split <;> simp

@[simp] theorem fixedNotice_scanOffer (b : Fin 8) (r : BayRecord) (s : State) :
    (scanOffer b r s).link.fixedNotice = s.link.fixedNotice := by
  simp [scanOffer, takeOffer]

@[simp] theorem fixedNotice_withdraw (b : Fin 8) (s : State) :
    (withdraw b s).link.fixedNotice = s.link.fixedNotice := by
  rw [withdraw]
  split <;> simp

@[simp] theorem fixedNotice_scanWithdraw (b : Fin 8) (r : BayRecord) (s : State) :
    (scanWithdraw b r s).link.fixedNotice = s.link.fixedNotice := by
  simp [scanWithdraw]

@[simp] theorem fixedNotice_scanGo (b : Fin 8) (r : BayRecord) (s : State) :
    (scanGo b r s).link.fixedNotice = s.link.fixedNotice := by
  simp [scanGo]

@[simp] theorem fixedNotice_scanBay (b : Fin 8) (r : BayRecord) (s : State) :
    (scanBay b r s).link.fixedNotice = s.link.fixedNotice := by
  simp [scanBay]

@[simp] theorem fixedNotice_scan (s : State) :
    (scan s).link.fixedNotice = s.link.fixedNotice := by
  simp [scan]

@[simp] theorem fixedNotice_baysPart (s : State) :
    (baysPart s).link.fixedNotice = s.link.fixedNotice := by
  simp [baysPart, baysAtFrameStart]

@[simp] theorem fixedNotice_serveEdge (edge : Fin 4 × Direction) (s : State) :
    (serveEdge edge s).link.fixedNotice = s.link.fixedNotice := by
  rw [serveEdge]
  split
  · rfl
  · split
    · simp
    · split <;> simp [countUnserved]

@[simp] theorem fixedNotice_takeEdge (l : Fin 4) (s : State) :
    (takeEdge l s).link.fixedNotice = s.link.fixedNotice := by
  rw [takeEdge]
  split <;> simp

@[simp] theorem fixedNotice_stopBay (b : Fin 8) (s : State) :
    (stopBay b s).link.fixedNotice = s.link.fixedNotice := by
  simp only [stopBay]
  split <;> simp

@[simp] theorem fixedNotice_stopBays (s : State) :
    (stopBays s).link.fixedNotice = s.link.fixedNotice := by
  simp [stopBays]

@[simp] theorem fixedNotice_endBay (b : Fin 8) (s : State) :
    (endBay b s).link.fixedNotice = s.link.fixedNotice := by
  rw [endBay]
  split <;> simp

@[simp] theorem fixedNotice_endBays (s : State) :
    (endBays s).link.fixedNotice = s.link.fixedNotice := by
  simp [endBays]

/-! ### The Trigger Unit (R100 to R112) -/

@[simp] theorem fixedNotice_deliverEdge (l : Fin 4) (s : State) :
    (deliverEdge l s).link.fixedNotice = s.link.fixedNotice := by
  simp [deliverEdge, passEdge]

@[simp] theorem fixedNotice_recompute (l : Fin 4) (s : State) :
    (recompute l s).link.fixedNotice = s.link.fixedNotice := by
  simp [recompute, deliveryTest]

@[simp] theorem fixedNotice_settleAlt (before : State) (s : State) :
    (settleAlt before s).link.fixedNotice = s.link.fixedNotice := by
  simp [settleAlt]

@[simp] theorem fixedNotice_filterChange (l : Fin 4) (s : State) :
    (filterChange l s).link.fixedNotice = s.link.fixedNotice := by
  simp [filterChange]

@[simp] theorem fixedNotice_holdOffExpiry (l : Fin 4) (s : State) :
    (holdOffExpiry l s).link.fixedNotice = s.link.fixedNotice := by
  simp [holdOffExpiry]

@[simp] theorem fixedNotice_latchLine (l : Fin 4) (setup : LineSetup) (s : State) :
    (latchLine l setup s).link.fixedNotice = s.link.fixedNotice := by
  simp [latchLine]

@[simp] theorem fixedNotice_latchSetups (s : State) :
    (latchSetups s).link.fixedNotice = s.link.fixedNotice := by
  simp [latchSetups]

@[simp] theorem fixedNotice_triggersPart (early : List (Fin 4)) (s : State) :
    (triggersPart early s).link.fixedNotice = s.link.fixedNotice := by
  simp [triggersPart]

/-! ### The Capture Unit (R119 to R124) -/

@[simp] theorem fixedNotice_changeCapture (f : Capture → Capture) (s : State) :
    (changeCapture f s).link.fixedNotice = s.link.fixedNotice := by
  simp [changeCapture]

@[simp] theorem fixedNotice_followLink (link : Option Format) (s : State) :
    (followLink link s).link.fixedNotice = s.link.fixedNotice := by
  simp [followLink]

@[simp] theorem fixedNotice_captureAtFrameStart (s : State) :
    (captureAtFrameStart s).link.fixedNotice = s.link.fixedNotice := by
  simp [captureAtFrameStart]

/-! ### The render channels and the ports (R150 to R161) -/

@[simp] theorem fixedNotice_computePixel (c : Fin 6) (s : State) :
    (computePixel c s).link.fixedNotice = s.link.fixedNotice := by
  simp [computePixel, enterQuarantine]

@[simp] theorem fixedNotice_duePixel (p c : Fin 6) (s : State) :
    (duePixel p c s).link.fixedNotice = s.link.fixedNotice := by
  rw [duePixel]
  split <;> simp

@[simp] theorem fixedNotice_sendPixel (p : Fin 6) (s : State) :
    (sendPixel p s).link.fixedNotice = s.link.fixedNotice := by
  rw [sendPixel]
  split
  · split <;> simp
  · rfl

@[simp] theorem fixedNotice_channelAtFrameStart (c : Fin 6) (s : State) :
    (channelAtFrameStart c s).link.fixedNotice = s.link.fixedNotice := by
  simp [channelAtFrameStart, latchControls, closeCounts]

@[simp] theorem fixedNotice_channelsAtFrameStart (s : State) :
    (channelsAtFrameStart s).link.fixedNotice = s.link.fixedNotice := by
  simp [channelsAtFrameStart, framesBegun]

@[simp] theorem fixedNotice_changePort (p : Fin 6) (f : Port → Port) (s : State) :
    (changePort p f s).link.fixedNotice = s.link.fixedNotice := by
  simp [changePort]

@[simp] theorem fixedNotice_failAttempt (p : Fin 6) (s : State) :
    (failAttempt p s).link.fixedNotice = s.link.fixedNotice := by
  simp [failAttempt]

@[simp] theorem fixedNotice_presenceRise (p : Fin 6) (s : State) :
    (presenceRise p s).link.fixedNotice = s.link.fixedNotice := by
  simp [presenceRise]

@[simp] theorem fixedNotice_presenceFall (p : Fin 6) (s : State) :
    (presenceFall p s).link.fixedNotice = s.link.fixedNotice := by
  simp [presenceFall]

@[simp] theorem fixedNotice_attemptExpiry (p : Fin 6) (s : State) :
    (attemptExpiry p s).link.fixedNotice = s.link.fixedNotice := by
  simp [attemptExpiry]

@[simp] theorem fixedNotice_retryExpiry (p : Fin 6) (s : State) :
    (retryExpiry p s).link.fixedNotice = s.link.fixedNotice := by
  simp [retryExpiry]

@[simp] theorem fixedNotice_settleTick (s : State) :
    (settleTick s).link.fixedNotice = s.link.fixedNotice := by
  simp [settleTick, settleLine, settlePort]

/-! ### The output frame start (R135, R182, R192) -/

@[simp] theorem fixedNotice_setTimingNoticed (v : Timing) (s : State) :
    (setTimingNoticed v s).link.fixedNotice = s.link.fixedNotice := by
  simp [setTimingNoticed]

@[simp] theorem fixedNotice_acknowledgeFault (s : State) :
    (acknowledgeFault s).link.fixedNotice = s.link.fixedNotice := by
  simp [acknowledgeFault]

@[simp] theorem fixedNotice_endStop (s : State) :
    (endStop s).link.fixedNotice = s.link.fixedNotice := by
  simp [endStop, endPorts]

@[simp] theorem fixedNotice_blocksAtFrameStart (ending : Bool) (early : List (Fin 4)) (s : State) :
    (blocksAtFrameStart ending early s).link.fixedNotice = s.link.fixedNotice := by
  simp [blocksAtFrameStart]

@[simp] theorem fixedNotice_issueFrameStart (now : Nat) (order : StartOrder) (s : State) :
    (issueFrameStart now order s).link.fixedNotice = s.link.fixedNotice := by
  simp [issueFrameStart]

@[simp] theorem fixedNotice_issueIf (due : Bool) (now : Nat) (order : StartOrder) (s : State) :
    (issueIf due now order s).link.fixedNotice = s.link.fixedNotice := by
  simp [issueIf]

/-! ### START, STOP and validation (R177 to R181) -/

@[simp] theorem fixedNotice_takeStart (s : State) :
    (takeStart s).link.fixedNotice = s.link.fixedNotice := by
  simp [takeStart, refuseArea, enterStarting]

@[simp] theorem fixedNotice_takeStop (s : State) :
    (takeStop s).link.fixedNotice = s.link.fixedNotice := by
  rw [takeStop]
  split <;> simp [leaveStarting, enterStopping]

@[simp] theorem fixedNotice_refuseProfile (reason : StartRefusal) (s : State) :
    (refuseProfile reason s).link.fixedNotice = s.link.fixedNotice := by
  simp [refuseProfile]

@[simp] theorem fixedNotice_enterRunning (now : Nat) (pins : BitVec 4) (hd : Header)
    (returned : List (StartBlock × List Byte)) (s : State) :
    (enterRunning now pins hd returned s).link.fixedNotice = s.link.fixedNotice := by
  simp [enterRunning]

/-! ### The bursts but that of the host link (R168) -/

@[simp] theorem fixedNotice_captureBurst (size : Nat) (s : State) :
    (captureBurst size s).link.fixedNotice = s.link.fixedNotice := by
  rw [captureBurst]
  split
  · rfl
  · split <;> simp

@[simp] theorem fixedNotice_fetchBurst (size : Nat) (c : Fin 6) (s : State) :
    (fetchBurst size c s).link.fixedNotice = s.link.fixedNotice := by
  rw [fetchBurst]
  split <;> simp

@[simp] theorem fixedNotice_editionBurst (size : Nat) (s : State) :
    (editionBurst size s).link.fixedNotice = s.link.fixedNotice := by
  rw [editionBurst]
  split
  · rfl
  · split
    · rfl
    · split <;> simp [walkBurst]

@[simp] theorem fixedNotice_statusBurst (s : State) :
    (statusBurst s).link.fixedNotice = s.link.fixedNotice := by
  rw [statusBurst]
  split <;> simp

/-! ### The invariant, and what keeps it (R171, R185, R186) -/

/-- The hard-wired register bits read 0, and frame memory is in its canonical form. -/
structure State.WindowsOk (s : State) : Prop where
  registers : s.RegistersOk
  memory : s.MemoryOk

/-- The canonical form is one of the bytes and the word errors: the corrected-error count is free. -/
theorem Memory.wf_congr {m n : Memory} (hcells : n.cells = m.cells) (herrors : n.errors = m.errors) : n.wf = m.wf := by
  rw [Memory.wf, Memory.wf, hcells, herrors]

section

variable {s t : State}

/-- What leaves AREA_BASE, NOTICE_ENABLE and the fixed bits of NOTICE keeps the hard-wired bits at 0. -/
theorem State.RegistersOk.congr (h : s.RegistersOk)
    (hnotice : t.link.fixedNotice = s.link.fixedNotice := by simp)
    (hbase : t.link.areaBase = s.link.areaBase := by simp)
    (henable : t.link.noticeEnable = s.link.noticeEnable := by simp) : t.RegistersOk := by
  obtain ⟨base, notice, enable⟩ := h
  exact ⟨hbase ▸ base, hnotice.trans notice, henable ▸ enable⟩

/-- What leaves the bytes and the word errors keeps the canonical form. -/
theorem State.MemoryOk.congr (h : s.MemoryOk) (hcells : t.memory.cells = s.memory.cells := by simp)
    (herrors : t.memory.errors = s.memory.errors := by simp) : t.MemoryOk :=
  (Memory.wf_congr hcells herrors).trans h

namespace State.WindowsOk

/-- What leaves the registers, but for notices raised, and the contents of frame memory keeps both. -/
theorem congr (h : s.WindowsOk) (hnotice : t.link.fixedNotice = s.link.fixedNotice := by simp)
    (hbase : t.link.areaBase = s.link.areaBase := by simp)
    (henable : t.link.noticeEnable = s.link.noticeEnable := by simp)
    (hcells : t.memory.cells = s.memory.cells := by simp)
    (herrors : t.memory.errors = s.memory.errors := by simp) : t.WindowsOk :=
  ⟨h.registers.congr hnotice hbase henable, h.memory.congr hcells herrors⟩

/-- A change of the link registers keeps both where it keeps the hard-wired bits at 0. -/
theorem setLink (h : s.WindowsOk) {v : LinkEndpoint} (hv : (s.setLink v).RegistersOk) : (s.setLink v).WindowsOk :=
  ⟨hv, h.memory⟩

/-- The accesses held stand beside the registers. -/
theorem setQueue (h : s.WindowsOk) (queue : List LinkAccess) : (s.setLink { s.link with queue := queue }).WindowsOk :=
  h.setLink h.registers

/-- The data returned stands beside the registers. -/
theorem setLastRead (h : s.WindowsOk) (data : Option ReadReturn) :
    (s.setLink { s.link with lastRead := data }).WindowsOk :=
  h.setLink h.registers

end State.WindowsOk

/-! ### Register accesses and resets (R183 to R185) -/

/-- AREA_BASE stores no bit below 16 (R185). -/
theorem areaBaseValue_fixed (w : RegWrite) (present : Word) : areaBaseValue w present &&& 0x0000FFFF#32 = 0 := by
  rw [areaBaseValue, BitVec.and_assoc]
  exact BitVec.and_zero

/-- NOTICE sets no bit by a write (R186). -/
theorem noticeValue_fixed (w : RegWrite) {present : Word} (h : present &&& 0xFFFFFF80#32 = 0) :
    noticeValue w present &&& 0xFFFFFF80#32 = 0 := by
  rw [noticeValue, BitVec.and_assoc, BitVec.and_comm (fillWrite _ _), ← BitVec.and_assoc, h]
  exact BitVec.zero_and

/-- NOTICE_ENABLE stores no bit above 6 (R185). -/
theorem noticeEnableValue_fixed (w : RegWrite) (present : Word) :
    noticeEnableValue w present &&& 0xFFFFFF80#32 = 0 := by
  rw [noticeEnableValue, BitVec.and_assoc]
  exact BitVec.and_zero

section

variable (h : s.WindowsOk)
include h

/-- A register access keeps the hard-wired bits and frame memory (R185). -/
theorem windowsOk_performRegister (a : RegisterAccess) : (performRegister a s).WindowsOk := by
  obtain ⟨base, notice, enable⟩ := h.registers
  cases a with
  | start => exact h.congr (t := takeStart s)
  | stop => exact h.congr (t := takeStop s)
  | reset => exact h.congr (t := deviceReset s)
  | areaBase w =>
    simp only [performRegister]
    split
    · exact h.setLink ⟨areaBaseValue_fixed w _, notice, enable⟩
    · exact h
  | notice w => exact h.setLink ⟨base, noticeValue_fixed w notice, enable⟩
  | noticeEnable w => exact h.setLink ⟨base, notice, noticeEnableValue_fixed w _⟩
  | ignored => exact h

/-- An access that the link delivers is performed, or held (R185). -/
theorem windowsOk_deliver (a : RegisterAccess) : (deliver a s).WindowsOk := by
  rw [deliver]
  split
  · exact windowsOk_performRegister h a
  · exact h.setQueue _

/-- A link reset clears NOTICE and NOTICE_ENABLE (R184). -/
theorem windowsOk_linkReset : (linkReset s).WindowsOk :=
  h.setLink ⟨h.registers.1, BitVec.zero_and, BitVec.zero_and⟩

omit h in
/-- Power-on reset clears the registers, and finds frame memory in its canonical form (R175, R184). -/
theorem windowsOk_powerOn (found : FoundMemory) (s : State) : (powerOn found s).WindowsOk :=
  ⟨⟨BitVec.zero_and, BitVec.zero_and, BitVec.zero_and⟩, Memory.ofFound_wf found⟩

/-! ### Bursts (R167, R168, R171 to R173) -/

/-- A burst write keeps the canonical form (R173). -/
theorem windowsOk_afterWrite (cells : List (Nat × Byte)) : (afterWrite cells s).WindowsOk := by
  refine ⟨h.registers.congr, ?_⟩
  rw [State.MemoryOk, afterWrite_memory]
  exact Memory.writeBurst_wf _ cells h.memory

/-- Performing the register accesses delivered next keeps both (R185). -/
theorem windowsOk_drain (q : List LinkAccess) : (drain q s).WindowsOk := by
  induction q generalizing s with
  | nil => exact h.setQueue _
  | cons a q ih =>
    cases a with
    | register a => exact ih (windowsOk_performRegister (h.setQueue _) a)
    | write address data => exact h.setQueue _
    | read address length got => exact h.setQueue _

/-- The host link's burst writes or reads frame memory, and may perform register accesses after it (R167, R185). -/
theorem windowsOk_hostBurst : (hostBurst s).WindowsOk := by
  rw [hostBurst]
  split
  · exact h
  · exact h
  · simp only [hostWriteBurst]
    split
    · exact windowsOk_drain (windowsOk_afterWrite h _) _
    · exact (windowsOk_afterWrite h _).setQueue _
  · simp only [hostReadBurst]
    have read {address length : Nat} : (afterRead address length s).WindowsOk := h.congr
    split
    · exact windowsOk_drain (read.setLastRead _) _
    · exact read.setQueue _

/-- The capture writer's burst writes pixels (R122). -/
theorem windowsOk_captureBurst (size : Nat) : (captureBurst size s).WindowsOk := by
  rw [captureBurst]
  split
  · exact h
  · split
    · exact h
    · exact windowsOk_afterWrite h.congr _

/-- The status writer's burst writes, or reads a block of the control area (R168). -/
theorem windowsOk_statusBurst : (statusBurst s).WindowsOk := by
  rw [statusBurst]
  split
  · exact h
  · exact windowsOk_afterWrite h.congr _
  · exact h.congr

/-- A granted burst keeps both (R168). -/
theorem windowsOk_performBurst (size : Nat) (r : Requester) : (performBurst size r s).WindowsOk := by
  cases r with
  | captureWriter => exact windowsOk_captureBurst h size
  | fetcher c => exact h.congr (t := fetchBurst size c s)
  | hostLink => exact windowsOk_hostBurst h
  | editionReader => exact h.congr (t := editionBurst size s)
  | statusWriter => exact windowsOk_statusBurst h

/-! ### Every command and every step -/

/-- CHECK_DONE leaves the registers but for notices, and frame memory (R83). -/
theorem windowsOk_checkDone : (execCheckDone s).Leads State.WindowsOk := by
  rw [execCheckDone]
  split
  · exact leads_next h
  · exact leads_next h.congr

/-- LOAD_DONE leaves the registers but for notices, and frame memory (R89). -/
theorem windowsOk_loadDone : (execLoadDone s).Leads State.WindowsOk := by
  rw [execLoadDone]
  split
  · exact leads_next h
  · exact leads_next h.congr

/-- PASSED_EDGE leaves the registers but for notices, and frame memory (R91, R92). -/
theorem windowsOk_passedEdge : (execPassedEdge s).Leads State.WindowsOk := by
  rw [execPassedEdge]
  split
  · exact leads_next h
  · split
    · exact leads_next h.congr
    · exact leads_next h

/-- FORMAT_ANNOUNCEMENT leaves the registers but for notices, and frame memory (R119). -/
theorem windowsOk_formatAnnouncement (format : Format) : (execFormatAnnouncement format s).Leads State.WindowsOk := by
  rw [execFormatAnnouncement]
  split
  · exact leads_next h
  · exact leads_next h.congr

/-- FILL_DONE leaves the registers but for notices, and frame memory (R123). -/
theorem windowsOk_fillDone : (execFillDone s).Leads State.WindowsOk := by
  rw [execFillDone]
  split
  · exact leads_next h.congr
  · exact leads_next h

/-- HOST_WRITE is held, or stops past the end of frame memory (R167). -/
theorem windowsOk_hostWrite (address : Nat) (data : List Byte) :
    (execHostWrite address data s).Leads State.WindowsOk := by
  rw [execHostWrite]
  split
  · exact leads_fault _
  · split
    · exact leads_next h
    · exact leads_next (h.setQueue _)

/-- HOST_READ is held, or stops past the end of frame memory (R167). -/
theorem windowsOk_hostRead (address length : Nat) : (execHostRead address length s).Leads State.WindowsOk := by
  rw [execHostRead]
  split
  · exact leads_fault _
  · split
    · exact leads_next h
    · exact leads_next (h.setQueue _)

/-- OUTPUT_FRAME_START reads frame memory and writes none (R135). -/
theorem windowsOk_outputFrameStart (order : StartOrder) : (execOutputFrameStart order s).Leads State.WindowsOk := by
  rw [execOutputFrameStart]
  split
  · exact leads_next h
  · exact leads_next h.congr

/-- MISSING_START_DEADLINE writes no frame memory (R143, R144). -/
theorem windowsOk_missingStartDeadline (order : StartOrder) :
    (execMissingStartDeadline order s).Leads State.WindowsOk := by
  rw [execMissingStartDeadline]
  split
  · exact leads_next h
  · exact leads_next h.congr

/-- VALIDATION_DONE leaves the registers but for the DEVICE notice, whatever the outcome (R179, R180). -/
theorem windowsOk_validationDone (now : Nat) (pins : BitVec 4) :
    (execValidationDone now pins s).Leads State.WindowsOk := by
  rw [execValidationDone]
  split
  · dsimp only
    split
    · exact leads_next h.congr
    · exact leads_next h.congr
  · exact leads_next h

/-- LOSS_OF_LOCK leaves the registers but for notices, and frame memory (R151). -/
theorem windowsOk_lossOfLock (p : Fin 6) : (execLossOfLock p s).Leads State.WindowsOk := by
  rw [execLossOfLock]
  split
  · exact leads_next h.congr
  · exact leads_next h

/-- TRAINING_DONE leaves the registers but for notices, and frame memory (R152, R153). -/
theorem windowsOk_trainingDone (p : Fin 6) (result : TrainingResult) :
    (execTrainingDone p result s).Leads State.WindowsOk := by
  rw [execTrainingDone]
  split
  · split
    · exact leads_next h.congr
    · exact leads_next h.congr
  · exact leads_next h

/-- BURST_GRANT keeps both (R168). -/
theorem windowsOk_burstGrant (size : Nat) : (execBurstGrant size s).Leads State.WindowsOk := by
  rw [execBurstGrant]
  split
  · exact leads_next h
  · exact leads_next (windowsOk_performBurst h.congr size _)

/-- RENDER_PIXEL leaves the registers but for notices, and frame memory (R156, R161). -/
theorem windowsOk_renderPixel (c : Fin 6) : (execRenderPixel c s).Leads State.WindowsOk := by
  rw [execRenderPixel]
  split
  · exact leads_next h.congr
  · exact leads_next h

/-- PIXEL_DUE leaves the registers but for notices, and frame memory (R157). -/
theorem windowsOk_pixelDue (p : Fin 6) : (execPixelDue p s).Leads State.WindowsOk := by
  rw [execPixelDue]
  split
  · exact leads_next h.congr
  · exact leads_next h

end

end

/-- Every command keeps the hard-wired register bits and the form of frame memory. -/
theorem windowsOk_exec {s : State} (h : s.WindowsOk) (i : Instr) : Result.Leads (exec i s) State.WindowsOk := by
  cases i with
  | start => exact leads_next (windowsOk_deliver h _)
  | stop => exact leads_next (windowsOk_deliver h _)
  | reset => exact leads_next (windowsOk_deliver h _)
  | areaBaseWrite w => exact leads_next (windowsOk_deliver h _)
  | noticeClear w => exact leads_next (windowsOk_deliver h _)
  | noticeEnableWrite w => exact leads_next (windowsOk_deliver h _)
  | registerWriteIgnored r w => exact leads_next (windowsOk_deliver h _)
  | powerOnReset found => exact leads_next (windowsOk_powerOn found s)
  | pciExpressLinkReset => exact leads_next (windowsOk_linkReset h)
  | hostWrite address data => exact windowsOk_hostWrite h address data
  | hostRead address length => exact windowsOk_hostRead h address length
  | presenceChange format => exact leads_next (h.congr (t := followLink format s))
  | formatAnnouncement format => exact windowsOk_formatAnnouncement h format
  | inputFrameStart time order => exact leads_next h.congr
  | line pixels => exact leads_next (h.congr (t := changeCapture _ s))
  | fillDone => exact windowsOk_fillDone h
  | outputFrameStart order => exact windowsOk_outputFrameStart h order
  | missingStartDeadline order => exact windowsOk_missingStartDeadline h order
  | validationDone time pins => exact windowsOk_validationDone h time pins
  | checkDone => exact windowsOk_checkDone h
  | loadDone => exact windowsOk_loadDone h
  | passedEdge => exact windowsOk_passedEdge h
  | filteredLevelChange l => exact leads_next (h.congr (t := filterChange l s))
  | holdOffExpiry l => exact leads_next (h.congr (t := holdOffExpiry l s))
  | presenceRise p => exact leads_next (h.congr (t := presenceRise p s))
  | presenceFall p => exact leads_next (h.congr (t := presenceFall p s))
  | lossOfLock p => exact windowsOk_lossOfLock h p
  | trainingDone p result => exact windowsOk_trainingDone h p result
  | attemptTimerExpiry p => exact leads_next (h.congr (t := attemptExpiry p s))
  | retryTimerExpiry p => exact leads_next (h.congr (t := retryExpiry p s))
  | burstGrant size => exact windowsOk_burstGrant h size
  | renderPixel c => exact windowsOk_renderPixel h c
  | pixelDue p => exact windowsOk_pixelDue h p
  | sampleTick pins presence => exact leads_next (h.congr (t := tickPorts presence (tickLines pins (settleTick s))))

/-- Settles O55: both are kept command by command, and the command taken from the queue stands beside them. -/
theorem registersAndMemoryKept : Obligations.RegistersAndMemoryKept := by
  intro s t hregisters hmemory hs
  have h : s.WindowsOk := ⟨hregisters, hmemory⟩
  have ht : t.WindowsOk := by
    rw [step] at hs
    split at hs
    · cases hs
      exact h
    · exact windowsOk_exec (s := s.setPending _) h.congr _ t hs
  exact ⟨ht.registers, ht.memory⟩


end Sys2Proof.Machine

namespace Sys2Proof.Machine

/-! ## The registers bit by bit (R185 to R187) -/

/-- A change of the link registers leaves every other part. -/
theorem sameBut_setLink (s : State) (v : LinkEndpoint) : State.sameBut [.link] s (s.setLink v) := by
  intro part hpart
  cases part with
  | link => exact absurd List.mem_cons_self hpart
  | _ => rfl

/-- A register access that comes on an idle link has the outcome of its performing (R185). -/
theorem next_deliver_of_idle {s : State} (h : s.link.queue = []) (a : RegisterAccess) :
    (.next (deliver a s) : Result) = .next (performRegister a s) :=
  congrArg Host.Outcome.next (deliver_of_idle h a)

/-- Byte `k` of a register, all ones, has the bits from 8k to 8k + 7. -/
theorem getLsbD_byteMask {i k : Nat} (hi : i < 32) (hk : k < 4) :
    (BitVec.ofNat 32 (255 * 256 ^ k)).getLsbD i = decide (i / 8 = k) := by
  have table : ∀ i < 32, ∀ k < 4, (BitVec.ofNat 32 (255 * 256 ^ k)).getLsbD i = decide (i / 8 = k) := by decide
  exact table i hi k hk

/-- The write mask has the bits of the bytes written (R185). -/
theorem getLsbD_writeMask (w : RegWrite) {i : Nat} (hi : i < 32) :
    (writeMask w).getLsbD i = w.enables.getLsbD (i / 8) := by
  have byte {k : Nat} (hk : k < 4) :
      (if w.enables.getLsbD k then BitVec.ofNat 32 (255 * 256 ^ k) else 0).getLsbD i =
        (w.enables.getLsbD k && decide (i / 8 = k)) := by
    split
    · rename_i he
      rw [getLsbD_byteMask hi hk, he, Bool.true_and]
    · rename_i he
      rw [eq_false_of_ne_true he, Bool.false_and]
      exact BitVec.getLsbD_zero
  simp only [writeMask, BitVec.getLsbD_or, byte (show 0 < 4 by omega), byte (show 1 < 4 by omega),
    byte (show 2 < 4 by omega), byte (show 3 < 4 by omega)]
  obtain hb | hb | hb | hb : i / 8 = 0 ∨ i / 8 = 1 ∨ i / 8 = 2 ∨ i / 8 = 3 := by omega
  all_goals simp [hb]

/-- A write gives the bytes it writes, and the base value those it does not (R185). -/
theorem getLsbD_fillWrite (w : RegWrite) (base : Word) {i : Nat} (hi : i < 32) :
    (fillWrite w base).getLsbD i = if w.enables.getLsbD (i / 8) then w.value.getLsbD i else base.getLsbD i := by
  rw [fillWrite, BitVec.getLsbD_or, BitVec.getLsbD_and, BitVec.getLsbD_and, BitVec.getLsbD_not, getLsbD_writeMask w hi,
    decide_eq_true hi]
  cases w.enables.getLsbD (i / 8) <;> simp

/-- AREA_BASE stores bits 31 to 16 (R185). -/
theorem getLsbD_areaBaseValue (w : RegWrite) (present : Word) {i : Nat} (hi : i < 32) :
    (areaBaseValue w present).getLsbD i = (decide (16 ≤ i) && (fillWrite w present).getLsbD i) := by
  have high : ∀ i < 32, (0xFFFF0000#32).getLsbD i = decide (16 ≤ i) := by decide
  rw [areaBaseValue, BitVec.getLsbD_and, high i hi, Bool.and_comm]

/-- NOTICE keeps a bit that is not written, and one that is written as 1 (R185, R186). -/
theorem getLsbD_noticeValue (w : RegWrite) (present : Word) {i : Nat} (hi : i < 32) :
    (noticeValue w present).getLsbD i =
      (present.getLsbD i && (!w.enables.getLsbD (i / 8) || w.value.getLsbD i)) := by
  have ones : ∀ i < 32, (0xFFFFFFFF#32).getLsbD i = true := by decide
  rw [noticeValue, BitVec.getLsbD_and, getLsbD_fillWrite w _ hi, ones i hi]
  cases w.enables.getLsbD (i / 8) <;> simp

/-- NOTICE_ENABLE stores bits 6 to 0 (R185). -/
theorem getLsbD_noticeEnableValue (w : RegWrite) (present : Word) {i : Nat} (hi : i < 32) :
    (noticeEnableValue w present).getLsbD i = (decide (i ≤ 6) && (fillWrite w present).getLsbD i) := by
  have low : ∀ i < 32, (0x7F#32).getLsbD i = decide (i ≤ 6) := by decide
  rw [noticeEnableValue, BitVec.getLsbD_and, low i hi, Bool.and_comm]

/-- Settles O7: each register by the bits it stores. -/
theorem registerWrites : Obligations.RegisterWrites := by
  intro s w hidle bit
  have performed (a : RegisterAccess) := next_deliver_of_idle hidle a
  refine ⟨fun hd => ⟨_, (performed (.areaBase w)).trans (congrArg Host.Outcome.next (if_pos hd)), sameBut_setLink s _, rfl,
      fun i hi => ?base⟩,
    fun hd => (performed (.areaBase w)).trans (congrArg Host.Outcome.next (if_neg hd)),
    ⟨_, performed (.notice w), sameBut_setLink s _, rfl, fun i hi => getLsbD_noticeValue w _ hi⟩,
    ⟨_, performed (.noticeEnable w), sameBut_setLink s _, rfl, fun i hi => ?enable⟩⟩
  case base => exact (getLsbD_areaBaseValue w _ hi).trans (by rw [getLsbD_fillWrite w _ hi])
  case enable => exact (getLsbD_noticeEnableValue w _ hi).trans (by rw [getLsbD_fillWrite w _ hi])

/-! ## The interrupt line (R186, R187) -/

/-- A group's mask has the bit of the group alone (R186). -/
theorem NoticeGroup.getLsbD_mask_eq (g : NoticeGroup) {i : Nat} (hi : i < 32) : g.mask.getLsbD i = decide (i = g.bit) := by
  have alone : ∀ i < 32, g.mask.getLsbD i = decide (i = g.bit) := by
    cases g <;> decide
  exact alone i hi

/-- The interrupt line is asserted just while NOTICE and NOTICE_ENABLE have a bit in common (R187). -/
theorem State.interruptLine_iff (s : State) : s.interruptLine = true ↔
    ∃ i < 32, s.link.notice.getLsbD i = true ∧ s.link.noticeEnable.getLsbD i = true := by
  rw [State.interruptLine, decide_eq_true_iff, ne_eq, BitVec.eq_of_getLsbD_eq_iff]
  simp

/-- Settles O9: the bits in common, then the one bit a notice sets. -/
theorem interruptLine : Obligations.InterruptLine := by
  refine ⟨State.interruptLine_iff, fun s g => ⟨sameBut_setLink s _, rfl, rfl, rfl, rfl, fun i hi => ?_⟩⟩
  rw [raiseNotice, State.setLink_link, BitVec.getLsbD_or, g.getLsbD_mask_eq hi, Bool.or_comm]

/-! ## Resets (R175, R183, R184) -/

/-- Settles O6: with NOTICE clear no bit is in common with NOTICE_ENABLE. -/
theorem linkReset_spec : Obligations.LinkReset := by
  refine fun s => ⟨linkReset s, rfl, sameBut_setLink s _, rfl, rfl, rfl, ?_, rfl, rfl⟩
  simp [State.interruptLine, linkReset]

/-- A port after a reset: its reset value, its presence line and the number of its latest attempt kept (log 25, log 38). -/
theorem get_clearedPorts (ports : Arr 6 Port) (p : Fin 6) :
    (clearedPorts ports).get p =
      { State.reset.ports.get p with presenceLine := (ports.get p).presenceLine, attempt := (ports.get p).attempt } := by
  rw [clearedPorts, Arr.get_map, State.reset, Arr.get_replicate]
  rfl

/-- A trigger line after a reset: its reset value, the level of its pin kept (R113, log 25). -/
theorem get_clearedTriggers (t : Triggers) (l : Fin 4) :
    (clearedTriggers t).lines.get l = { State.reset.triggers.lines.get l with pin := (t.lines.get l).pin } := by
  rw [clearedTriggers, Arr.get_map, State.reset, resetTriggers, Arr.get_replicate]
  rfl

/-- Settles O5: a device reset takes the reset value of each block, and what stands outside is kept. -/
theorem deviceReset_spec : Obligations.DeviceReset := by
  intro s hidle
  refine ⟨deviceReset s, next_deliver_of_idle hidle .reset, fun part hpart => ?blocks,
    fun part hpart => ?outside, get_clearedPorts s.ports, rfl, rfl, get_clearedTriggers s.triggers, fun a => rfl,
    fun w => rfl, rfl⟩
  case blocks =>
    cases part with
    | pending | link | source | ports | triggers | memory => simp at hpart
    | _ => rfl
  case outside =>
    cases part with
    | pending | link | source => rfl
    | _ => simp at hpart

/-! ### Frame memory as found (R171, R175) -/

/-- The word errors that power-on finds, set one after another; those past the end of frame memory are left out (log 2). -/
def setErrors (l : List (Nat × EccError)) (found : List (Nat × EccError)) : List (Nat × EccError) :=
  found.foldl (fun l e => if e.1 < Config.frameMemoryBytes / 8 then insertKey e.1 e.2 l else l) l

/-- The word errors of frame memory as found. -/
theorem Memory.errorAt_ofFound (found : FoundMemory) (w : Nat) :
    (Memory.ofFound found).errorAt w = lookup (setErrors [] found.errors) w := rfl

/-- A word that none of the errors found names keeps what is listed for it. -/
theorem lookup_setErrors_of_notMem {found : List (Nat × EccError)} {w : Nat} (h : ∀ e ∈ found, e.1 ≠ w)
    (l : List (Nat × EccError)) : lookup (setErrors l found) w = lookup l w := by
  induction found generalizing l with
  | nil => rfl
  | cons e found ih =>
    have later := ih fun d hd => h d (List.mem_cons_of_mem _ hd)
    have hne : e.1 ≠ w := h e List.mem_cons_self
    rw [setErrors, List.foldl_cons, ← setErrors, later]
    split
    · rw [lookup_insertKey, if_neg hne]
    · rfl

/-- An error found once, of a word of frame memory, is the one listed. -/
theorem lookup_setErrors_of_mem {found : List (Nat × EccError)} (hn : (found.map Prod.fst).Nodup) {e : Nat × EccError}
    (he : e ∈ found) (hw : e.1 < Config.frameMemoryBytes / 8) (l : List (Nat × EccError)) :
    lookup (setErrors l found) e.1 = some e.2 := by
  induction found generalizing l with
  | nil => cases he
  | cons d found ih =>
    obtain ⟨hd, hn⟩ := List.nodup_cons.mp hn
    rw [setErrors, List.foldl_cons, ← setErrors]
    rcases List.mem_cons.mp he with rfl | he
    · have once : ∀ c ∈ found, c.1 ≠ e.1 := fun c hc heq => hd (List.mem_map.mpr ⟨c, hc, heq⟩)
      rw [lookup_setErrors_of_notMem once, if_pos hw, lookup_insertKey, if_pos rfl]
    · exact ih hn he _

/-- The bytes of frame memory as found. -/
theorem Memory.read_ofFound (found : FoundMemory) (a : Nat) :
    (Memory.ofFound found).read a = (resetMemory.writeAll found.cells).read a := rfl

/-- Settles O4: power-on resets what a device reset does and the registers, and finds frame memory as listed. -/
theorem powerOnReset : Obligations.PowerOnReset := by
  intro found s
  refine ⟨powerOn found s, rfl, fun part hpart => ?blocks, rfl, rfl, get_clearedPorts s.ports, rfl, rfl,
    get_clearedTriggers s.triggers, rfl, fun hn c hc hlt => ?byte, fun a ha => ?unlisted, fun hn e he hlt => ?error⟩
  case blocks =>
    cases part with
    | pending | source | ports | triggers | memory => simp at hpart
    | _ => rfl
  case byte => exact (Memory.read_ofFound found c.1).trans (Memory.read_writeAll_of_mem found.cells resetMemory hn c hc hlt)
  case unlisted => exact (Memory.read_ofFound found a).trans (Memory.read_writeAll_of_notMem resetMemory found.cells a ha)
  case error => exact (Memory.errorAt_ofFound found e.1).trans (lookup_setErrors_of_mem hn he hlt [])

end Sys2Proof.Machine

namespace Sys2Proof.Machine

/-! ## The register window as it reads (R185) -/

/-- A number as bytes has the length asked for. -/
theorem length_leBytes (size v : Nat) : (leBytes size v).length = size := by
  induction size generalizing v with
  | zero => rfl
  | succ size ih => rw [leBytes, List.length_cons, ih]

/-- The `i`-th byte of a number, least significant first (R193). -/
theorem getElem?_leBytes {size i : Nat} (hi : i < size) (v : Nat) :
    (leBytes size v)[i]? = some (BitVec.ofNat 8 (v / 256 ^ i)) := by
  induction size generalizing i v with
  | zero => omega
  | succ size ih =>
    cases i with
    | zero => simp [leBytes]
    | succ i => rw [leBytes, List.getElem?_cons_succ, ih (Nat.lt_of_succ_lt_succ hi), Nat.div_div_eq_div_mul, pow_succ']

/-- A read within one register returns as many bytes as it addresses (R185). -/
theorem length_registerBytes (s : State) {offset size : Nat} (h : offset % 4 + size ≤ 4) :
    (s.registerBytes offset size).length = size := by
  rw [State.registerBytes, List.length_take, List.length_drop, length_leBytes]
  omega

/-- A read within one register returns its addressed bytes (R185). -/
theorem getElem?_registerBytes (s : State) {offset size i : Nat} (h : offset % 4 + size ≤ 4) (hi : i < size) :
    (s.registerBytes offset size)[i]? =
      some (BitVec.ofNat 8 ((s.register (offset / 4 * 4)).toNat / 256 ^ (offset % 4 + i))) := by
  rw [State.registerBytes, List.getElem?_take_of_lt hi, List.getElem?_drop]
  exact getElem?_leBytes (by omega) _

/-- The live bay number as RUN_STATUS shows it: its number plus 1, and 0 for none (R185). -/
def liveField : Option (Fin 8) → Nat
  | none => 0
  | some b => b.val + 1

/-- The fields of RUN_STATUS do not overlap, so that it reads their sum (R185). -/
theorem toNat_runStatus (s : State) :
    s.runStatus.toNat =
      s.device.state.code + 16 * s.timing.state.code + 256 * liveField s.bays.liveBay +
        65536 * (s.timing.frame.toNat % 65536) := by
  have hdevice : s.device.state.code ≤ 3 := by cases s.device.state <;> decide
  have htiming : s.timing.state.code ≤ 4 := by cases s.timing.state <;> decide
  have hlive : liveField s.bays.liveBay ≤ 8 := by
    cases s.bays.liveBay with
    | none => exact Nat.zero_le _
    | some b => exact b.isLt
  have hframe : s.timing.frame.toNat % 65536 < 65536 := Nat.mod_lt _ (by decide)
  refine (BitVec.toNat_ofNat _ 32).trans (Nat.mod_eq_of_lt ?_)
  show s.device.state.code + 16 * s.timing.state.code + 256 * liveField s.bays.liveBay +
    65536 * (s.timing.frame.toNat % 65536) < 2 ^ 32
  omega

/-- A bit of a write of RUN_CONTROL, 0 in a byte that is not written (R185). -/
def controlBit (w : RegWrite) (i : Nat) : Bool := w.enables.getLsbD (i / 8) && w.value.getLsbD i

/-- What a write of RUN_CONTROL asks for, by its bits 2 to 0 (R185). -/
theorem runControlCommand_eq (w : RegWrite) :
    runControlCommand w =
      if controlBit w 2 then some .reset
      else if controlBit w 0 && !controlBit w 1 then some .start
      else if controlBit w 1 && !controlBit w 0 then some .stop
      else none := by
  have written {i : Nat} (hi : i < 32) : (fillWrite w 0).getLsbD i = controlBit w i := by
    rw [getLsbD_fillWrite w 0 hi, controlBit]
    cases w.enables.getLsbD (i / 8) <;> simp
  simp only [runControlCommand, written (show 0 < 32 by omega), written (show 1 < 32 by omega),
    written (show 2 < 32 by omega)]

/-- Settles O8: the registers, the bytes of a short read, and RUN_CONTROL by its three bits. -/
theorem registerReads : Obligations.RegisterReads := by
  intro s w bit
  have asked : runControlCommand w =
      if bit 2 then some .reset else if bit 0 && !bit 1 then some .start else if bit 1 && !bit 0 then some .stop
      else none := runControlCommand_eq w
  refine ⟨rfl, rfl, rfl, rfl, rfl, toNat_runStatus s,
    fun offset size _ _ hfits => ⟨length_registerBytes s hfits, fun i hi => getElem?_registerBytes s hfits hi⟩, rfl, rfl,
    fun h2 => ?reset, fun h2 h0 h1 => ?start, fun h2 h0 h1 => ?stop, fun h2 heq => ?nothing⟩
  case reset => simp [asked, h2]
  case start => simp [asked, h2, h0, h1]
  case stop => simp [asked, h2, h0, h1]
  case nothing => simp [asked, h2, heq]

/-! ## START in IDLE and STOP in STARTING (R177, R179, R181) -/

/-- Settles O10: START by whether AREA_BASE lies in frame memory, then STOP in STARTING. -/
theorem startAndStopInStarting : Obligations.StartAndStopInStarting := by
  refine ⟨fun b l => ⟨rfl, rfl, rfl⟩, rfl, fun s hidle => ?_⟩
  intro units area entered refused forgotten left
  have performed (a : RegisterAccess) := next_deliver_of_idle hidle a
  refine ⟨fun hd hfits => ?starts, fun hd hbeyond => ?refuses, fun hd => ?returns⟩
  case starts =>
    have started : takeStart s = enterStarting area s := by
      rw [takeStart, if_pos hd]
      exact if_neg (Nat.not_lt.mpr hfits)
    exact (performed .start).trans (congrArg Host.Outcome.next started)
  case refuses =>
    have left_idle : takeStart s = refuseArea s := by
      rw [takeStart, if_pos hd]
      exact if_pos hbeyond
    exact (performed .start).trans (congrArg Host.Outcome.next left_idle)
  case returns =>
    have unwanted : forgotten = StatusRequest.forget := by
      funext r
      cases r <;> rfl
    have stopped : takeStop s = leaveStarting s := by
      rw [takeStop, hd]
    have returned : leaveStarting s = snapshot left := by
      simp only [left, unwanted]
      rfl
    exact (performed .stop).trans (congrArg Host.Outcome.next (stopped.trans returned))

/-! ## The fault record (R190 to R192) -/

/-- A kind that is seen sets its own mark, and leaves the other marks and the fields (R191). -/
theorem FaultRecord.see_marks (f : FaultRecord) (kind : FaultKind) :
    (f.see kind).seenTable = (decide (kind = .table) || f.seenTable) ∧
      (f.see kind).seenMemory = (decide (kind = .memory) || f.seenMemory) ∧
      (f.see kind).seenLink = (decide (kind = .link) || f.seenLink) ∧
      (f.see kind).detail = f.detail ∧ (f.see kind).frame = f.frame := by
  cases kind <;> exact ⟨rfl, rfl, rfl, rfl, rfl⟩

/-- An empty record is filled (R190). -/
theorem FaultRecord.take_of_empty {f : FaultRecord} (h : f.occupied = false) (kind : FaultKind) (detail : Word)
    (frame : BitVec 64) :
    f.take kind detail frame =
      FaultRecord.see ⟨true, nextSequence f.sequence, some kind, detail, frame, 0, false, false, false⟩ kind :=
  if_neg (by simp [h])

/-- An occupied record with a further fault counted, up to the limit of the count (R191). -/
def FaultRecord.counted (f : FaultRecord) : FaultRecord :=
  { f with further := min (f.further + 1) Config.furtherFaultLimit }

/-- A fault of a strictly higher class takes the place of the held one (R191). -/
theorem FaultRecord.take_of_higher {f : FaultRecord} (ho : f.occupied = true) {kind : FaultKind}
    (hr : f.outranks kind = true) (detail : Word) (frame : BitVec 64) :
    f.take kind detail frame =
      FaultRecord.see { f.counted with kind := some kind, detail := detail, frame := frame } kind := by
  rw [FaultRecord.take, if_pos ho, FaultRecord.join, if_pos hr]
  rfl

/-- A fault of an equal or lower class leaves the held one (R191). -/
theorem FaultRecord.take_of_not_higher {f : FaultRecord} (ho : f.occupied = true) {kind : FaultKind}
    (hr : f.outranks kind = false) (detail : Word) (frame : BitVec 64) :
    f.take kind detail frame = f.counted.see kind := by
  rw [FaultRecord.take, if_pos ho, FaultRecord.join, if_neg (by simp [hr])]
  rfl

/-- A held fault is outranked by the kinds of a strictly higher class (R191). -/
theorem FaultRecord.outranks_of_held {f : FaultRecord} {held : FaultKind} (h : f.kind = some held) (kind : FaultKind) :
    f.outranks kind = decide (kind.code < held.code) := by
  rw [FaultRecord.outranks, h]

/-- Before its kind is seen, a record that takes a fault is occupied and has the marks of the record it joins, and none where
the fault fills it (R190, R191). -/
theorem FaultRecord.take_eq_see (f : FaultRecord) (kind : FaultKind) (detail : Word) (frame : BitVec 64) :
    ∃ r : FaultRecord, f.take kind detail frame = r.see kind ∧ r.occupied = true ∧
      r.seenTable = (f.occupied && f.seenTable) ∧ r.seenMemory = (f.occupied && f.seenMemory) ∧
      r.seenLink = (f.occupied && f.seenLink) := by
  cases ho : f.occupied with
  | false => exact ⟨_, FaultRecord.take_of_empty ho kind detail frame, rfl, rfl, rfl, rfl⟩
  | true =>
    cases hr : f.outranks kind with
    | true => exact ⟨_, FaultRecord.take_of_higher ho hr detail frame, ho, rfl, rfl, rfl⟩
    | false => exact ⟨_, FaultRecord.take_of_not_higher ho hr detail frame, ho, rfl, rfl, rfl⟩

/-- Whatever the record held, it is occupied after a fault, and its marks are those seen since it was filled (R190, R191). -/
theorem FaultRecord.take_marks (f : FaultRecord) (kind : FaultKind) (detail : Word) (frame : BitVec 64) :
    (f.take kind detail frame).occupied = true ∧
      (f.take kind detail frame).seenTable = (decide (kind = .table) || f.occupied && f.seenTable) ∧
      (f.take kind detail frame).seenMemory = (decide (kind = .memory) || f.occupied && f.seenMemory) ∧
      (f.take kind detail frame).seenLink = (decide (kind = .link) || f.occupied && f.seenLink) := by
  obtain ⟨r, htake, ho, ht, hm, hl⟩ := f.take_eq_see kind detail frame
  obtain ⟨occupied, -⟩ := r.see_keeps kind
  obtain ⟨table, memory, link, -⟩ := r.see_marks kind
  rw [htake, ← ht, ← hm, ← hl]
  exact ⟨occupied.trans ho, table, memory, link⟩

/-- A fault raises FAULT where it fills the record or displaces the held fault (R190, R191). -/
theorem link_takeFault (kind : FaultKind) (detail : Word) (s : State) :
    (takeFault kind detail s).link =
      if s.status.fault.noticesOn kind then (raiseNotice .fault s).link else s.link := by
  rw [takeFault, raiseIf]
  split <;> rfl

/-- Settles O49: a fault by what the record holds, then the acknowledgement. -/
theorem faultRecordRules : Obligations.FaultRecordRules := by
  intro s kind held detail ack f t g counted
  have hstatus : t.status = { s.status with fault := f.take kind detail s.timing.frame } := takeFault_status kind detail s
  have hg : g = f.take kind detail s.timing.frame := congrArg Status.fault hstatus
  have hlink : t.link = if f.noticesOn kind then (raiseNotice .fault s).link else s.link := link_takeFault kind detail s
  obtain ⟨hoccupied, htable, hmemory, hseen⟩ := f.take_marks kind detail s.timing.frame
  rw [← hg] at hoccupied htable hmemory hseen
  refine ⟨(sameBut_takeFault kind detail s).mono (by decide), hstatus.trans (by rw [← hg]), hoccupied, htable, hmemory,
    hseen, fun ho => ?fills, fun ho hk hlt => ?displaces, fun ho hk hle => ?stays, fun ho hack heq => ?empties,
    fun hnot => ?kept⟩
  case fills =>
    have hfill := hg.trans (FaultRecord.take_of_empty ho kind detail s.timing.frame)
    have notices : f.noticesOn kind = true := by simp [FaultRecord.noticesOn, ho]
    obtain ⟨-, sequence, kinds, further⟩ := FaultRecord.see_keeps _ kind
    obtain ⟨-, -, -, details, frames⟩ := FaultRecord.see_marks _ kind
    rw [hfill]
    exact ⟨sequence, kinds, details, frames, further, hlink.trans (if_pos notices)⟩
  case displaces =>
    have higher : f.outranks kind = true := by rw [FaultRecord.outranks_of_held hk, decide_eq_true hlt]
    have notices : f.noticesOn kind = true := by simp [FaultRecord.noticesOn, higher]
    obtain ⟨-, sequence, kinds, further⟩ := FaultRecord.see_keeps _ kind
    obtain ⟨-, -, -, details, frames⟩ := FaultRecord.see_marks _ kind
    rw [hg.trans (FaultRecord.take_of_higher ho higher detail s.timing.frame)]
    exact ⟨sequence, kinds, details, frames, further, hlink.trans (if_pos notices)⟩
  case stays =>
    have lower : f.outranks kind = false := by rw [FaultRecord.outranks_of_held hk, decide_eq_false (Nat.not_lt.mpr hle)]
    have quiet : ¬ f.noticesOn kind = true := by simp [FaultRecord.noticesOn, ho, lower]
    obtain ⟨-, sequence, kinds, further⟩ := FaultRecord.see_keeps f.counted kind
    obtain ⟨-, -, -, details, frames⟩ := FaultRecord.see_marks f.counted kind
    rw [hg.trans (FaultRecord.take_of_not_higher ho lower detail s.timing.frame)]
    exact ⟨sequence, kinds, details, frames, further, hlink.trans (if_neg quiet)⟩
  case empties =>
    subst heq
    exact if_pos (by simp [ho, hack])
  case kept =>
    rw [FaultRecord.acknowledge]
    refine if_neg fun hall => ?_
    simp only [Bool.and_eq_true, decide_eq_true_eq] at hall
    obtain ⟨⟨ho, hne⟩, heq⟩ := hall
    rcases hnot with hempty | hzero | hother
    · exact absurd (ho.symm.trans hempty) (by decide)
    · exact hne hzero
    · exact hother heq

/-! ## Commands without a cause (R151, R152, R177, R181; log 4) -/

/-- A walk that has reached no result has none to hand over (R64, R69). -/
theorem finished_of_unfinished {o : Option Walk} (h : ∀ w, o = some w → w.result = none) : finished o = none := by
  cases o with
  | none => rfl
  | some w => rw [finished, h w rfl, Option.map_none]

/-- With no requester waiting none is granted (R169). -/
theorem nextGrant_of_none {s : State} (h : ∀ r, waits s r = false) : nextGrant s = none := by
  have fetchers : nextFetcher s = none := nextFetcher_of_none fun c => by simp [h]
  simp [nextGrant, h, fetchers]

/-- Without a rise due none comes (R150). -/
theorem presenceRise_of_not_due {s : State} {p : Fin 6}
    (h : (s.ports.get p).state = .off ∨ (s.ports.get p).presenceRun ≠ 100 ∨ (s.ports.get p).presence = true) :
    presenceRise p s = s := by
  refine if_neg fun ⟨hdue, hlow⟩ => ?_
  obtain ⟨hon, hrun⟩ := (Port.presenceDue_iff _).mp hdue
  rcases h with hoff | hshort | hhigh
  · exact hon hoff
  · exact hshort hrun
  · exact absurd (hhigh.symm.trans hlow) (by decide)

/-- Without a fall due none comes (R150). -/
theorem presenceFall_of_not_due {s : State} {p : Fin 6}
    (h : (s.ports.get p).state = .off ∨ (s.ports.get p).presenceRun ≠ 100 ∨ (s.ports.get p).presence = false) :
    presenceFall p s = s := by
  refine if_neg fun ⟨hdue, hhigh⟩ => ?_
  obtain ⟨hon, hrun⟩ := (Port.presenceDue_iff _).mp hdue
  rcases h with hoff | hshort | hlow
  · exact hon hoff
  · exact hshort hrun
  · exact absurd (hhigh.symm.trans hlow) (by decide)

/-- Without an attempt whose timer has run out none ends so (R152). -/
theorem attemptExpiry_of_not_due {s : State} {p : Fin 6}
    (h : (s.ports.get p).state ≠ .training ∨ (s.ports.get p).phase ≠ some .attempt ∨ (s.ports.get p).attemptTimer ≠ 0) :
    attemptExpiry p s = s := by
  refine if_neg fun ⟨hattempt, htimer⟩ => ?_
  obtain ⟨htraining, hphase⟩ := (Port.attempting_iff _).mp hattempt
  rcases h with hs | hp | ht
  · exact hs htraining
  · exact hp hphase
  · exact ht htimer

/-- Without a retry wait whose timer has run out no attempt begins (R152). -/
theorem retryExpiry_of_not_due {s : State} {p : Fin 6}
    (h : (s.ports.get p).state ≠ .training ∨ (s.ports.get p).phase ≠ some .retryWait ∨ (s.ports.get p).retryTimer ≠ 0) :
    retryExpiry p s = s := by
  refine if_neg fun ⟨htraining, hphase, htimer⟩ => ?_
  rcases h with hs | hp | ht
  · exact hs htraining
  · exact hp hphase
  · exact ht htimer

/-- No output frame start comes where none is placed or scheduled, or the generator is STOPPED (R135). -/
theorem execOutputFrameStart_of_none {s : State} (h : s.timing.nextStart = none ∨ s.timing.state = .stopped)
    (order : StartOrder) : execOutputFrameStart order s = .next s := by
  rw [execOutputFrameStart]
  split
  · rfl
  · rename_i now hnow
    rcases h with hnone | hstopped
    · cases hnone.symm.trans hnow
    · have silent : ¬ s.timing.issues = true := by simp [Timing.issues, hstopped]
      rw [issueIf, if_neg silent]

/-- No edge is taken where none waits, or outside RUNNING (R91, R110). -/
theorem execPassedEdge_of_none {s : State} (h : s.triggers.edges = [] ∨ s.device.state ≠ .running) :
    execPassedEdge s = .next s := by
  rw [execPassedEdge]
  split
  · rfl
  · rename_i e rest hedges
    rcases h with hnone | hd
    · cases hnone.symm.trans hedges
    · exact if_neg hd

/-- STOP does nothing in IDLE and STOPPING (R181). -/
theorem takeStop_of_ignored {s : State} (h : s.device.state = .idle ∨ s.device.state = .stopping) : takeStop s = s := by
  rcases h with hd | hd <;> rw [takeStop, hd]

/-- Settles O38: each command by the cause that the state does not give. -/
theorem eventsWithoutCause : Obligations.EventsWithoutCause := by
  intro s l p c k now size pins f port line
  have unchanged {t : State} (h : t = s) : (.next t : Result) = .next s := congrArg Host.Outcome.next h
  refine ⟨fun hidle hd => (next_deliver_of_idle hidle .start).trans (unchanged (if_neg hd)),
    fun hidle hd => (next_deliver_of_idle hidle .stop).trans (unchanged (takeStop_of_ignored hd)),
    fun hreads => if_neg (by simp [hreads]), fun hnone => execOutputFrameStart_of_none hnone k, fun hnone => ?deadline,
    fun hnone => ?announcement, fun hfill => if_neg (by simp [hfill]), fun hwalk => ?checkDone, fun hwalk => ?loadDone,
    execPassedEdge_of_none, fun hdue => unchanged (filterChange_of_not_due fun hm => ?level),
    fun hdue => unchanged (holdOffExpiry_of_not_expired fun hm he => ?holdOff),
    fun hdue => unchanged (presenceRise_of_not_due hdue), fun hdue => unchanged (presenceFall_of_not_due hdue),
    fun hdue => unchanged (attemptExpiry_of_not_due hdue), fun hdue => unchanged (retryExpiry_of_not_due hdue),
    fun hnone => ?grant, fun hdue => if_neg fun ⟨hr, hn, hdata⟩ => ?render, fun hend => if_neg (Nat.not_lt.mpr hend)⟩
  case deadline => simp only [exec, execMissingStartDeadline, hnone]
  case announcement => simp only [exec, execFormatAnnouncement, hnone]
  case checkDone => simp only [exec, execCheckDone, finished_of_unfinished hwalk]
  case loadDone => simp only [exec, execLoadDone, finished_of_unfinished hwalk]
  case level => exact hdue.resolve_left (by simp [hm])
  case holdOff =>
    obtain ⟨hon, hleft⟩ := (Line.expired_iff _).mp he
    rcases hdue with hclear | hoff | hruns
    · exact absurd (hm.symm.trans hclear) (by decide)
    · exact absurd (hon.symm.trans hoff) (by decide)
    · exact hruns hleft
  case grant => simp only [exec, execBurstGrant, nextGrant_of_none hnone]
  case render =>
    rcases hdue with hdark | hover | hmissing
    · exact absurd (hr.symm.trans hdark) (by decide)
    · exact absurd hn (Nat.not_lt.mpr hover)
    · exact absurd (hdata.symm.trans hmissing) (by decide)

end Sys2Proof.Machine

namespace Sys2Proof.Machine

/-! ## A step by its queue (log 1) -/

/-- An empty queue leaves the device idle: the model's choice. -/
theorem step_of_pending_nil {s : State} (h : s.pending = []) : step s = .next s := by
  rw [step, h]

/-- The front command leaves the queue before it runs, so its meaning sees only what waits behind it. -/
theorem step_of_pending_cons {s : State} {c : Instr} {rest : List Instr} (h : s.pending = c :: rest) :
    step s = exec c (s.setPending rest) := by
  rw [step, h]

/-- Settles O1: a step is given by the two forms of the queue. -/
theorem stepRunsFrontCommand : Obligations.StepRunsFrontCommand :=
  ⟨fun _ _ _ hfront => step_of_pending_cons hfront, fun _ hempty => step_of_pending_nil hempty⟩

end Sys2Proof.Machine

namespace Sys2Proof.Machine

/-! ## What changes of bays hand over (R75, R168) -/

/-- From `s` to `t` the requests are handed to the status writer behind those it holds, and BAY is raised where `raised`
holds and the device works. -/
structure State.HandsOver (s t : State) (requests : List StatusRequest) (raised : Bool) : Prop where
  device : t.device = s.device
  status : t.status = s.statusWith requests
  link : t.link = (raiseIf (raised && s.working) .bay s).link

/-- The requests of a record write follow the validated area alone. -/
theorem State.recordWrites_of_area {s t : State} (h : t.device.validatedArea = s.device.validatedArea) (b : Fin 8)
    (fields : List (Nat × Nat × Nat)) : t.recordWrites b fields = s.recordWrites b fields := by
  rw [State.recordWrites, State.recordWrites, h]

/-- The requests of a record write follow the device alone. -/
theorem State.recordWrites_congr {s t : State} (h : t.device = s.device) (b : Fin 8) (fields : List (Nat × Nat × Nat)) :
    t.recordWrites b fields = s.recordWrites b fields :=
  State.recordWrites_of_area (congrArg Device.validatedArea h) b fields

/-- Whether the device works follows the device state alone. -/
theorem State.working_congr {s t : State} (h : t.device = s.device) : t.working = s.working := by
  rw [State.working, State.working, h]

/-- A notice raised twice is raised once (R186). -/
theorem link_raiseIf_raiseIf {s t : State} {g : NoticeGroup} {a b : Bool} (h : t.link = (raiseIf a g s).link) :
    (raiseIf b g t).link = (raiseIf (a || b) g s).link := by
  cases a <;> cases b <;> simp_all [raiseIf, raiseNotice, BitVec.or_assoc]

namespace State.HandsOver

variable {s t u : State} {requests more : List StatusRequest} {raised again : Bool}

/-- A change of other parts hands nothing over. -/
theorem of_same (hd : t.device = s.device) (hs : t.status = s.status) (hl : t.link = s.link) :
    s.HandsOver t [] false := by
  refine ⟨hd, ?_, hl⟩
  rw [hs, State.statusWith, List.append_nil]

/-- What one change hands over comes before what the next hands over. -/
theorem trans (h : s.HandsOver t requests raised) (k : t.HandsOver u more again) :
    s.HandsOver u (requests ++ more) (raised || again) := by
  refine ⟨k.device.trans h.device, ?_, ?_⟩
  · rw [k.status, State.statusWith, h.status, State.statusWith, State.statusWith, List.append_assoc]
  · rw [k.link, State.working_congr h.device, link_raiseIf_raiseIf h.link, Bool.and_or_distrib_right]

/-- A change that hands nothing over may come before. -/
theorem after_same (k : t.HandsOver u more again) (hd : t.device = s.device) (hs : t.status = s.status)
    (hl : t.link = s.link) : s.HandsOver u more again := by
  simpa using (of_same hd hs hl).trans k

/-- A change that hands nothing over may come after. -/
theorem before_same (h : s.HandsOver t requests raised) (hd : u.device = t.device) (hs : u.status = t.status)
    (hl : u.link = t.link) : s.HandsOver u requests raised := by
  simpa using h.trans (of_same hd hs hl)

/-- A change of a bay hands over its new state with the fields, and raises BAY while the device works (R75). -/
theorem changeBay (b : Fin 8) (f : Bay → Bay) (fields : List (Nat × Nat × Nat)) (s : State) :
    s.HandsOver (changeBay b f fields s)
      (s.recordWrites b ((0x00, 1, (f (s.bays.bays.get b)).state.code) :: fields)) true :=
  ⟨by simp, status_changeBay b f fields s, link_changeBay b f fields s⟩

/-- A bay's new state handed over (R75). -/
theorem setBayState (b : Fin 8) (k : BayState) (s : State) :
    s.HandsOver (setBayState b k s) (s.recordWrites b [(0x00, 1, k.code)]) true :=
  changeBay b _ [] s

/-- Fields of a bay's record handed over by themselves (R75, R82). -/
theorem handFields (b : Fin 8) (fields : List (Nat × Nat × Nat)) (s : State) :
    s.HandsOver (handFields (bayOffset b) fields s) (s.recordWrites b fields) false := by
  refine ⟨by simp, ?_, by simp [raiseIf]⟩
  rw [Machine.handFields, State.recordWrites]
  cases s.device.validatedArea with
  | none => simp [State.statusWith]
  | some area => rfl

/-- The bays dealt with in order: each hands over by its own shadow state, which the ones before leave as it was. -/
theorem foldl_allOf {f : State → Fin 8 → State} {r : Fin 8 → List StatusRequest} {c : Fin 8 → Bool}
    (step : ∀ (t : State) b, t.device = s.device → t.bayState b = s.bayState b → t.HandsOver (f t b) (r b) (c b))
    (others : ∀ t b a, a ≠ b → (f t b).bayState a = t.bayState a) :
    s.HandsOver ((allOf 8).foldl f s) ((allOf 8).flatMap r) ((allOf 8).any c) := by
  have key : ∀ (l : List (Fin 8)) (t : State), l.Nodup → t.device = s.device →
      (∀ b ∈ l, t.bayState b = s.bayState b) → t.HandsOver (l.foldl f t) (l.flatMap r) (l.any c) := by
    intro l
    induction l with
    | nil => exact fun t _ _ _ => of_same rfl rfl rfl
    | cons b l ih =>
      intro t hn hd hb
      obtain ⟨hnew, hl⟩ := List.nodup_cons.mp hn
      have first := step t b hd (hb b List.mem_cons_self)
      refine first.trans (ih _ hl (first.device.trans hd) fun a ha => ?_)
      rw [others t b a (ne_of_mem_of_not_mem ha hnew), hb a (List.mem_cons_of_mem b ha)]
  exact key _ s (nodup_allOf 8) rfl fun _ _ => rfl

end State.HandsOver

/-! ## Gos (R87, R88) -/

/-- The other loads give way: each hands over READY (R88). -/
theorem handsOver_supersede (b : Fin 8) (s : State) :
    s.HandsOver (supersede b s)
      ((allOf 8).flatMap fun a =>
        if a ≠ b ∧ (s.bayState a = .loading ∨ s.bayState a = .staged) then s.recordWrites a [(0x00, 1, 3)] else [])
      ((allOf 8).any fun a => decide (a ≠ b ∧ (s.bayState a = .loading ∨ s.bayState a = .staged))) := by
  refine State.HandsOver.foldl_allOf (fun t a hd ha => ?_) (fun t x a hne => ?_)
  · simp only [BayState.isLoad_iff, ha]
    split
    · rename_i h
      rw [decide_eq_true h, ← State.recordWrites_congr hd]
      exact State.HandsOver.setBayState a .ready t
    · rename_i h
      rw [decide_eq_false h]
      exact .of_same rfl rfl rfl
  · split
    · rw [bayState_setBayState, if_neg hne]
    · rfl

/-- A load that starts hands over the bays that give way, then its own bay (R75, R88). -/
theorem handsOver_startLoad (b : Fin 8) (s : State) : s.HandsOver (startLoad b s) (loadWrites s b) true := by
  have given := handsOver_supersede b s
  have loading := State.HandsOver.setBayState b .loading (supersede b s)
  rw [State.recordWrites_congr given.device] at loading
  have both := given.trans loading
  rw [Bool.or_true] at both
  exact both.before_same (by simp [startLoad]) (by simp [startLoad]) (by simp [startLoad])

/-- What another load makes of a shadow: one that is LOADING or STAGED becomes READY (R88). -/
def supersededShadow (bay : Bay) : Bay :=
  if bay.state = .loading ∨ bay.state = .staged then { bay with state := .ready } else bay

/-- The shadows after the other loads give way (R88). -/
theorem shadow_supersede (b : Fin 8) (s : State) (a : Fin 8) :
    (supersede b s).bays.bays.get a = if a = b then s.bays.bays.get a else supersededShadow (s.bays.bays.get a) := by
  refine foldl_allOf_get (fun a (t : State) => t.bays.bays.get a) _
    (fun a bay => if a = b then bay else supersededShadow bay) (fun t x a => ?_) s a
  by_cases hx : a = x
  · subst hx
    by_cases hb : a = b
    · simp [hb]
    · simp only [ne_eq, hb, not_false_eq_true, true_and, BayState.isLoad_iff, if_true, if_false]
      split <;> rename_i hload
      · exact (shadow_changeBay ..).trans ((if_pos rfl).trans (if_pos hload).symm)
      · exact (if_neg hload).symm
  · rw [if_neg hx]
    split
    · exact (shadow_changeBay ..).trans (if_neg hx)
    · rfl

/-- The shadows where a load starts: its bay becomes LOADING, the other loads give way (R88). -/
theorem shadow_startLoad (b : Fin 8) (s : State) (a : Fin 8) :
    (startLoad b s).bays.bays.get a =
      if a = b then { s.bays.bays.get a with state := .loading } else supersededShadow (s.bays.bays.get a) := by
  have h : (startLoad b s).bays = (setBayState b .loading (supersede b s)).bays := by simp [startLoad]
  rw [h, setBayState, shadow_changeBay, shadow_supersede]
  split <;> rfl

/-- The bay that a load starts on becomes LOADING (R88). -/
theorem shadow_startLoad_self (b : Fin 8) (s : State) :
    (startLoad b s).bays.bays.get b = { s.bays.bays.get b with state := .loading } :=
  (shadow_startLoad b s b).trans (if_pos rfl)

/-- The other bays where a load starts: LOADING and STAGED ones become READY (R88). -/
theorem bayState_startLoad_ne {a b : Fin 8} (h : a ≠ b) (s : State) :
    (startLoad b s).bayState a = if s.bayState a = .loading ∨ s.bayState a = .staged then .ready else s.bayState a := by
  rw [State.bayState, shadow_startLoad, if_neg h, supersededShadow]
  exact apply_ite Bay.state _ _ _

/-- The Loader starts on the bay as it was recorded (R65, R88). -/
theorem loader_startLoad (b : Fin 8) (s : State) :
    (startLoad b s).reader.loader =
      some (startWalk s.layout b (s.bays.bays.get b).address (s.bays.bays.get b).length
        (some (planOf ((s.bays.bays.get b).summary.getD emptySummary)))) := by
  simp [startLoad, setBayState, shadow_supersede]

/-- A go of a READY bay starts its load (R88). -/
theorem giveGo_of_ready {s : State} {b : Fin 8} (h : s.bayState b = .ready) : giveGo b s = startLoad b s := by
  rw [giveGo, h]

/-- A go of a bay before or in its check waits (R87). -/
theorem giveGo_of_waiting {s : State} {b : Fin 8} (h : s.bayState b = .offered ∨ s.bayState b = .checking) :
    giveGo b s = modifyBay b (fun bay => { bay with goPending := true }) s := by
  rcases h with h | h <;> rw [giveGo, h]

/-- A go of a bay in any other state has no effect (R87). -/
theorem giveGo_of_other {s : State} {b : Fin 8}
    (h : s.bayState b ∈ [BayState.loading, .staged, .live, .empty, .rejected, .released]) : giveGo b s = s := by
  rw [giveGo]
  split <;> simp_all

/-- Settles O28: by the bay's state, and for a READY bay by what a load that starts changes. -/
theorem goGiven : Obligations.GoGiven := by
  refine fun s b => ⟨fun hready => ?_, giveGo_of_waiting, giveGo_of_other⟩
  have handed := handsOver_startLoad b s
  rw [giveGo_of_ready hready]
  refine ⟨by simp [Part.same], ?_, fun a ha => bayState_startLoad_ne ha s, by simp, loader_startLoad b s, by simp, by simp,
    handed.status, by simpa using handed.link⟩
  rw [State.bayState, shadow_startLoad_self]

end Sys2Proof.Machine

namespace Sys2Proof.Machine

/-! ## The exchange (R78, R93, R162) -/

/-- With no bay STAGED the exchange changes nothing (R78). -/
theorem exchange_of_none {s : State} (h : s.bayIn .staged = none) : exchange s = s := by
  rw [exchange, h]

/-- The two bays that an exchange changes, the previous live bay last (R78, log 39). -/
def swapBays (b : Fin 8) (previous : Option (Fin 8)) (s : State) : State :=
  retireLive previous (setBayState b .live (s.setStore s.store.exchange))

/-- The exchange with a bay STAGED: the two bays, the live number and tag, the quarantine marks (R78). -/
theorem exchange_eq_swapBays {s : State} {b : Fin 8} (h : s.bayIn .staged = some b) :
    exchange s = clearQuarantine (setLive (some b) (s.bays.bays.get b).tag (swapBays b (s.bayIn .live) s)) := by
  rw [exchange, h]
  rfl

/-- A bay set to a state keeps the rest of its shadow, and every other bay its shadow (R75). -/
theorem shadow_setBayState (b : Fin 8) (k : BayState) (s : State) (a : Fin 8) :
    (setBayState b k s).bays.bays.get a =
      { s.bays.bays.get a with state := if a = b then k else s.bayState a } := by
  rw [setBayState, shadow_changeBay]
  split <;> rfl

/-- The shadows after the two bays of an exchange have changed (R78). -/
theorem shadow_swapBays (b : Fin 8) (previous : Option (Fin 8)) (s : State) (a : Fin 8) :
    (swapBays b previous s).bays.bays.get a =
      { s.bays.bays.get a with
        state := if some a = previous then .ready else if a = b then .live else s.bayState a } := by
  have live : ∀ a, (setBayState b .live (s.setStore s.store.exchange)).bays.bays.get a =
      { s.bays.bays.get a with state := if a = b then .live else s.bayState a } := shadow_setBayState b .live _
  cases previous with
  | none => simpa [swapBays, retireLive] using live a
  | some c => simp [swapBays, retireLive, shadow_setBayState, State.bayState, live]

/-- The exchange hands over the new live bay and then the previous one (R75, log 39). -/
theorem handsOver_swapBays (b : Fin 8) (previous : Option (Fin 8)) (s : State) :
    s.HandsOver (swapBays b previous s)
      (s.recordWrites b [(0x00, 1, 6)] ++
        match previous with
        | none => []
        | some a => s.recordWrites a [(0x00, 1, 3)]) true := by
  have live : s.HandsOver (setBayState b .live (s.setStore s.store.exchange)) (s.recordWrites b [(0x00, 1, 6)]) true :=
    (State.HandsOver.setBayState b .live (s.setStore s.store.exchange)).after_same rfl rfl rfl
  cases previous with
  | none => simpa [swapBays, retireLive] using live
  | some a =>
    have retired := State.HandsOver.setBayState a .ready (setBayState b .live (s.setStore s.store.exchange))
    rw [State.recordWrites_congr live.device] at retired
    exact live.trans retired

/-- Settles O26: the parts of the state one by one, the bays and their writes from the two changes. -/
theorem exchange_spec : Obligations.Exchange := by
  refine fun s => ⟨exchange_of_none, fun b previous hb hprevious => ?_⟩
  subst hprevious
  have handed := handsOver_swapBays b (s.bayIn .live) s
  refine ⟨by simp [Part.same], by simp [store_exchange, hb], fun a => ?shadow, ?liveBay, ?liveTag, fun c => ?mark, ?status,
    ?link⟩
  case mark => simp [channels_exchange, hb]
  all_goals rw [exchange_eq_swapBays hb]
  case shadow =>
    rw [← shadow_swapBays]
    simp
  case liveBay => rfl
  case liveTag => rfl
  case status => exact Eq.trans (by simp) handed.status
  case link => simpa [clearQuarantine, setLive] using handed.link

/-! ## The scan of one bay (R79 to R82) -/

/-- The states in which a scan looks for an offer (R74). -/
theorem BayState.isOpen_iff (k : BayState) : k.isOpen = true ↔ k = .empty ∨ k = .rejected ∨ k = .released := by
  cases k <;> simp [BayState.isOpen]

/-- An offer is taken in the open states alone (R74, R80). -/
theorem scanOffer_eq (b : Fin 8) (r : BayRecord) (s : State) :
    scanOffer b r s =
      if (s.bayState b = .empty ∨ s.bayState b = .rejected ∨ s.bayState b = .released) ∧ r.state = 1 then
        takeOffer b r s
      else s := by
  simp only [scanOffer, BayState.isOpen_iff]
  rfl

/-- A change of one bay leaves all but the bays, the registers and the status writer. -/
theorem sameBut_changeBay (b : Fin 8) (f : Bay → Bay) (fields : List (Nat × Nat × Nat)) (s : State) :
    State.sameBut [.bays, .link, .status] s (changeBay b f fields s) := by
  intro p hp
  cases p <;> simp [Part.same] at hp ⊢

section
variable {s : State} {b : Fin 8}

/-- A withdraw in EMPTY, REJECTED and RELEASED has no effect (R81). -/
theorem withdraw_of_open (h : s.bayState b = .empty ∨ s.bayState b = .rejected ∨ s.bayState b = .released) :
    withdraw b s = s := by
  rcases h with h | h | h <;> rw [withdraw, h]

variable (h : s.bayState b ∈ [BayState.offered, .checking, .ready, .loading, .live])
include h

/-- The shadows after a withdraw that releases its bay: that of no other bay changes (R81). -/
theorem shadow_withdraw (a : Fin 8) :
    (withdraw b s).bays.bays.get a =
      if a = b then { s.bays.bays.get a with state := .released, goPending := false, summary := none }
      else s.bays.bays.get a := by
  have released : ∀ t : State, t.bays.bays = s.bays.bays → (releaseBay b t).bays.bays.get a =
      if a = b then { s.bays.bays.get a with state := .released, goPending := false, summary := none }
      else s.bays.bays.get a := fun t ht => (shadow_changeBay ..).trans (by rw [ht])
  rw [withdraw]
  cases hk : s.bayState b with
  | offered | ready => exact released s rfl
  | checking => exact released (setChecker none s) rfl
  | loading => exact released (setLoader none s) rfl
  | live => exact released s rfl
  | empty | staged | rejected | released => simp [hk] at h

/-- A withdraw that releases its bay hands over RELEASED, whatever else it gives up (R75, R81). -/
theorem handsOver_withdraw : s.HandsOver (withdraw b s) (s.recordWrites b [(0x00, 1, 8)]) true := by
  have released : ∀ t : State, t.HandsOver (releaseBay b t) (t.recordWrites b [(0x00, 1, 8)]) true :=
    State.HandsOver.changeBay b _ []
  rw [withdraw]
  cases hk : s.bayState b with
  | offered | ready => exact released s
  | checking => exact (released (setChecker none s)).after_same rfl rfl rfl
  | loading => exact (released (setLoader none s)).after_same rfl rfl rfl
  | live => exact (released s).before_same rfl rfl rfl
  | empty | staged | rejected | released => simp [hk] at h

end

/-- A withdraw leaves all but the bays, the walks, the registers and the status writer (R81). -/
theorem sameBut_scanWithdraw (b : Fin 8) (r : BayRecord) (s : State) :
    State.sameBut [.bays, .reader, .link, .status] s (scanWithdraw b r s) := by
  intro p hp
  cases p <;> simp [Part.same] at hp ⊢

/-- A go leaves what the scan has recorded as taken (R82, R87). -/
theorem goTaken_giveGo (b : Fin 8) (s : State) :
    ((giveGo b s).bays.bays.get b).goTaken = (s.bays.bays.get b).goTaken := by
  rw [giveGo]
  split
  · rw [shadow_startLoad_self]
  · rw [shadow_modifyBay, if_pos rfl]
  · rw [shadow_modifyBay, if_pos rfl]
  all_goals rfl

/-- A go request that the scan has not taken is taken once (R82). -/
theorem scanGo_of_ne {b : Fin 8} {r : BayRecord} {s : State} (h : r.goRequest ≠ (s.bays.bays.get b).goTaken) :
    scanGo b r s = giveGo b (handFields (bayOffset b) [(0x20, 1, r.goRequest.toNat)]
      (modifyBay b (fun bay => { bay with goTaken := r.goRequest }) s)) :=
  if_pos h

/-- Settles O27: the offer, the withdraw by the bay's state, the go. -/
theorem bayScan : Obligations.BayScan := by
  intro s b r offered
  have taken (h : offered) : scanOffer b r s = takeOffer b r s := (scanOffer_eq b r s).trans (if_pos h)
  have withdrawn (h : r.withdraw = true) : scanWithdraw b r s = withdraw b s := if_pos h
  refine ⟨rfl, fun h => ?offer, fun h => ?offerFrame, fun h => (scanOffer_eq b r s).trans (if_neg h),
    fun h => if_neg (by simp [h]), fun h hk => (withdrawn h).trans (withdraw_of_open hk), fun h hk => ?released,
    fun h => if_neg (not_not.mpr h), fun h => ⟨scanGo_of_ne h, ?goTaken⟩⟩
  case offer =>
    rw [taken h]
    exact (shadow_changeBay ..).trans (if_pos rfl)
  case offerFrame =>
    rw [taken h]
    exact ⟨sameBut_changeBay b _ _ s, fun a ha => (shadow_changeBay ..).trans (if_neg ha), status_changeBay ..,
      link_changeBay ..⟩
  case released =>
    have frame := sameBut_scanWithdraw b r s
    rw [withdrawn h] at frame ⊢
    have handed := handsOver_withdraw hk
    refine ⟨(shadow_withdraw hk b).trans (if_pos rfl), frame, fun a ha => (shadow_withdraw hk a).trans (if_neg ha),
      handed.status, by simpa using handed.link, fun hc => ?_, fun hl => ?_, fun hv => ?_⟩
    · simp [withdraw, hc]
    · simp [withdraw, hl]
    · simp [withdraw, hv, setLive]
  case goTaken => simp [scanGo_of_ne h, goTaken_giveGo]

end Sys2Proof.Machine

namespace Sys2Proof.Machine

/-! ## CHECK_DONE (R83 to R85) -/

section
variable {s : State}

/-- The record writes of a load follow the validated area and the other bays' states alone. -/
theorem loadWrites_congr {t : State} {b : Fin 8} (hd : t.device = s.device)
    (h : ∀ a, a ≠ b → t.bayState a = s.bayState a) :
    loadWrites t b = loadWrites s b := by
  have hone : ∀ a,
      (if a ≠ b ∧ (t.bayState a = .loading ∨ t.bayState a = .staged) then t.recordWrites a [(0x00, 1, 3)] else []) =
      if a ≠ b ∧ (s.bayState a = .loading ∨ s.bayState a = .staged) then s.recordWrites a [(0x00, 1, 3)]
      else [] := by
    intro a
    by_cases ha : a = b
    · simp [ha]
    · rw [h a ha, State.recordWrites_congr hd]
  simp only [loadWrites, hone]
  rw [State.recordWrites_congr hd]

/-- The mark of a waiting go cleared leaves every state (R84). -/
theorem bayState_clearGo (b : Fin 8) (s : State) (a : Fin 8) :
    (modifyBay b (fun bay => { bay with goPending := false }) s).bayState a = s.bayState a :=
  bayState_modifyBay _ _ _ _ fun _ => rfl

/-- Whether a go follows a verified check at once: one waits for it, or auto_go is on (R84). -/
def Bay.goesAtOnce (bay : Bay) : Bool := bay.goPending || bay.autoGo

/-- A verified bay with a go: its load starts, the mark of the go cleared (R84, R88). -/
theorem goAtCheckDone_of_go {b : Fin 8} (h : s.bayState b = .ready) (hgo : (s.bays.bays.get b).goesAtOnce = true) :
    goAtCheckDone b s = startLoad b (modifyBay b (fun bay => { bay with goPending := false }) s) :=
  (if_pos hgo).trans (giveGo_of_ready ((bayState_clearGo b s b).trans h))

/-- A verified bay without a go stays as it is (R84). -/
theorem goAtCheckDone_of_not_go {b : Fin 8} (hgo : (s.bays.bays.get b).goesAtOnce = false) : goAtCheckDone b s = s :=
  if_neg (by rw [Bay.goesAtOnce] at hgo; simp [hgo])

/-- What the go of a verified bay hands over: the writes of its load (R75, R84). -/
theorem handsOver_goAtCheckDone {b : Fin 8} (h : s.bayState b = .ready) :
    s.HandsOver (goAtCheckDone b s) (if (s.bays.bays.get b).goesAtOnce then loadWrites s b else [])
      (s.bays.bays.get b).goesAtOnce := by
  cases hgo : (s.bays.bays.get b).goesAtOnce with
  | false =>
    rw [goAtCheckDone_of_not_go hgo]
    exact .of_same rfl rfl rfl
  | true =>
    have handed := (handsOver_startLoad b (modifyBay b (fun bay => { bay with goPending := false }) s)).after_same
      (s := s) rfl rfl rfl
    rw [loadWrites_congr (t := modifyBay b (fun bay => { bay with goPending := false }) s) (s := s) rfl
      fun a _ => bayState_clearGo b s a] at handed
    rwa [goAtCheckDone_of_go h hgo]

/-- The shadows after the go of a verified bay: its own is LOADING where the go comes, and the mark is clear (R84, R88). -/
theorem shadow_goAtCheckDone {b : Fin 8} (h : s.bayState b = .ready) (a : Fin 8) :
    (goAtCheckDone b s).bays.bays.get a =
      if a = b then
        { s.bays.bays.get a with
          state := if (s.bays.bays.get b).goesAtOnce then .loading else .ready, goPending := false }
      else if (s.bays.bays.get b).goesAtOnce then supersededShadow (s.bays.bays.get a) else s.bays.bays.get a := by
  cases hgo : (s.bays.bays.get b).goesAtOnce with
  | false =>
    rw [goAtCheckDone_of_not_go hgo]
    split
    · rename_i hab
      subst hab
      have hmark : (s.bays.bays.get a).goPending = false := (Bool.or_eq_false_iff.mp hgo).1
      rw [State.bayState] at h
      cases hbay : s.bays.bays.get a
      simp_all
    · rfl
  | true =>
    rw [goAtCheckDone_of_go h hgo, shadow_startLoad, shadow_modifyBay]
    split <;> simp_all

/-- A verified check: what it hands over, with the go that follows (R75, R84). -/
theorem handsOver_applyCheck_passed (w : Walk) :
    s.HandsOver (applyCheck w .passed s)
      (s.recordWrites w.bay [(0x00, 1, 3), (0x24, 4, w.summary.tag.toNat), (0x28, 4, w.poolSum)] ++
        if (s.bays.bays.get w.bay).goesAtOnce then loadWrites s w.bay else []) true := by
  have verified : s.HandsOver (verifyBay w.bay w.summary w.poolSum s)
      (s.recordWrites w.bay [(0x00, 1, 3), (0x24, 4, w.summary.tag.toNat), (0x28, 4, w.poolSum)]) true :=
    State.HandsOver.changeBay ..
  have gone := handsOver_goAtCheckDone (s := verifyBay w.bay w.summary w.poolSum s) (b := w.bay)
    ((bayState_verifyBay ..).trans (if_pos rfl))
  rw [loadWrites_congr verified.device fun a ha => (bayState_verifyBay ..).trans (if_neg ha)] at gone
  have hgo : ((verifyBay w.bay w.summary w.poolSum s).bays.bays.get w.bay).goesAtOnce =
      (s.bays.bays.get w.bay).goesAtOnce := by
    rw [verifyBay, shadow_changeBay, if_pos rfl]
    rfl
  rw [hgo] at gone
  exact verified.trans gone

/-- The bay of a verified check (R84). -/
theorem shadow_applyCheck_passed (w : Walk) :
    (applyCheck w .passed s).bays.bays.get w.bay =
      { s.bays.bays.get w.bay with
        state := if (s.bays.bays.get w.bay).goesAtOnce then .loading else .ready, goPending := false
        tag := w.summary.tag, poolPoints := w.poolSum, summary := some w.summary } := by
  rw [applyCheck, shadow_goAtCheckDone ((bayState_verifyBay ..).trans (if_pos rfl)), if_pos rfl, verifyBay,
    shadow_changeBay, if_pos rfl]
  rfl

/-- A verified check changes its own bay alone (R84). -/
theorem shadow_verifyBay_ne {a b : Fin 8} (h : a ≠ b) (summary : CheckSummary) (points : Nat) :
    (verifyBay b summary points s).bays.bays.get a = s.bays.bays.get a :=
  (shadow_changeBay ..).trans (if_neg h)

/-- A load leaves a bay that waits for a check (R88). -/
theorem supersededShadow_of_offered {bay : Bay} (h : bay.state = .offered) : supersededShadow bay = bay :=
  if_neg (by simp [h])

/-- A load makes no bay OFFERED (R88). -/
theorem state_supersededShadow_ne_offered {bay : Bay} (h : bay.state ≠ .offered) :
    (supersededShadow bay).state ≠ .offered := by
  rw [supersededShadow]
  split
  · simp
  · exact h

/-- The result of a check leaves the bays that wait for one (R83 to R85). -/
theorem shadow_applyCheck_of_offered {w : Walk} (r : WalkResult) {a : Fin 8} (hne : a ≠ w.bay)
    (ha : s.bayState a = .offered) : (applyCheck w r s).bays.bays.get a = s.bays.bays.get a := by
  cases r with
  | rejected reason index => exact (shadow_changeBay ..).trans (if_neg hne)
  | passed =>
    rw [applyCheck, shadow_goAtCheckDone ((bayState_verifyBay ..).trans (if_pos rfl)), if_neg hne,
      shadow_verifyBay_ne hne, supersededShadow_of_offered ha, ite_self]

/-- The result of a check makes no bay OFFERED (R84, R85). -/
theorem bayState_applyCheck_ne_offered {w : Walk} (r : WalkResult) {a : Fin 8} (ha : s.bayState a ≠ .offered) :
    (applyCheck w r s).bayState a ≠ .offered := by
  cases r with
  | rejected reason index =>
    rw [applyCheck, bayState_rejectBay]
    split
    · simp
    · exact ha
  | passed =>
    rw [State.bayState, applyCheck, shadow_goAtCheckDone ((bayState_verifyBay ..).trans (if_pos rfl))]
    split
    · dsimp only
      split <;> simp
    · rename_i hne
      rw [shadow_verifyBay_ne hne]
      split
      · exact state_supersededShadow_ne_offered ha
      · exact ha

/-- The bays that wait for a check after a check's result are those that waited before (R83 to R85). -/
theorem offered_applyCheck_iff {w : Walk} (r : WalkResult) (hw : s.bayState w.bay ≠ .offered) (a : Fin 8) :
    (applyCheck w r s).bayState a = .offered ↔ s.bayState a = .offered := by
  refine ⟨fun h => not_not.mp fun ha => bayState_applyCheck_ne_offered r ha h, fun ha => ?_⟩
  have hne : a ≠ w.bay := fun e => hw (e ▸ ha)
  rwa [State.bayState, shadow_applyCheck_of_offered r hne ha]

/-- What the result of a check hands over, with the load that a go starts (R75, R84, R85). -/
def checkWrites (s : State) (w : Walk) : WalkResult → List StatusRequest
  | .passed =>
      s.recordWrites w.bay [(0x00, 1, 3), (0x24, 4, w.summary.tag.toNat), (0x28, 4, w.poolSum)] ++
        if (s.bays.bays.get w.bay).goesAtOnce then loadWrites s w.bay else []
  | .rejected reason index => s.recordWrites w.bay [(0x00, 1, 7), (0x21, 1, reason.code), (0x22, 1, index)]

/-- The result of a check is handed over, and BAY raised (R75, R84, R85). -/
theorem handsOver_applyCheck (w : Walk) (r : WalkResult) :
    s.HandsOver (applyCheck w r s) (checkWrites s w r) true := by
  cases r with
  | passed => exact handsOver_applyCheck_passed w
  | rejected reason index => exact State.HandsOver.changeBay ..

/-- The writes of a check's result do not depend on the walks. -/
theorem checkWrites_setChecker (v : Option Walk) (w : Walk) (r : WalkResult) :
    checkWrites (setChecker v s) w r = checkWrites s w r := rfl

/-- What the start of a check hands over, where one starts (R75, R83). -/
def startWrites (s : State) : Option (Fin 8) → List StatusRequest
  | none => []
  | some b => s.recordWrites b [(0x00, 1, 2)]

/-- The writes of a check's start follow the validated area alone. -/
theorem startWrites_congr {t : State} (h : t.device = s.device) (next : Option (Fin 8)) :
    startWrites t next = startWrites s next := by
  cases next with
  | none => rfl
  | some b => exact State.recordWrites_congr h b _

/-- The bay that the next check takes (R83). -/
def State.nextChecked (s : State) : Option (Fin 8) := lowest 8 (fun a => decide (s.bayState a = .offered))

/-- The next check where the Checker is free: on the lowest OFFERED bay, if one is (R83). -/
theorem startCheck_of_free (hd : s.device.state = .running) (hc : s.reader.checker = none) :
    startCheck s =
      match s.nextChecked with
      | none => s
      | some b =>
          setChecker (some (startWalk s.layout b (s.bays.bays.get b).address (s.bays.bays.get b).length none))
            (setBayState b .checking s) :=
  if_pos ⟨hd, hc⟩

/-- What the start of the next check hands over (R75, R83). -/
theorem handsOver_startCheck (hd : s.device.state = .running) (hc : s.reader.checker = none) :
    s.HandsOver (startCheck s) (startWrites s s.nextChecked) s.nextChecked.isSome := by
  rw [startCheck_of_free hd hc]
  cases s.nextChecked with
  | none => exact .of_same rfl rfl rfl
  | some b => exact (State.HandsOver.setBayState b .checking s).before_same rfl rfl rfl

/-- A bay that is not OFFERED is left by the start of the next check (R83). -/
theorem shadow_startCheck_of_ne {a : Fin 8} (ha : s.bayState a ≠ .offered) :
    (startCheck s).bays.bays.get a = s.bays.bays.get a := by
  rw [startCheck]
  split
  · split
    · rfl
    · rename_i b hb
      have hne : a ≠ b := fun e => ha (by simpa [e] using lowest_some hb)
      exact (shadow_changeBay ..).trans (if_neg hne)
  · rfl

/-- CHECK_DONE where the Checker has reached its result (R64). -/
theorem execCheckDone_of_result {w : Walk} {r : WalkResult} (hw : s.reader.checker = some w) (hr : w.result = some r) :
    execCheckDone s = .next (startCheck (applyCheck w r (setChecker none s))) := by
  simp [execCheckDone, finished, hw, hr]

end

/-- Settles O29: the result applied to its bay, then the next check on a bay that the result leaves as it was. -/
theorem checkDone : Obligations.CheckDone := by
  intro s w r hd hw hr hchecking bay
  set idle := setChecker none s with hidle
  set u := applyCheck w r idle with hu
  have hud : u.device.state = .running := by simpa [hu, hidle] using hd
  have huc : u.reader.checker = none := by simp [hu, hidle]
  have hnot : idle.bayState w.bay ≠ .offered := by
    rw [bayState_of_bays (s := s) (by simp [hidle]), hchecking]
    decide
  have hnext : u.nextChecked = lowest 8 (fun a => decide (s.bayState a = .offered)) := by
    rw [State.nextChecked]
    congr 1
    funext a
    exact decide_eq_decide.mpr (offered_applyCheck_iff r hnot a)
  have hown : (startCheck u).bays.bays.get w.bay = u.bays.bays.get w.bay :=
    shadow_startCheck_of_ne (bayState_applyCheck_ne_offered r hnot)
  have result : s.HandsOver u (checkWrites s w r) true := by
    rw [← checkWrites_setChecker none]
    exact (handsOver_applyCheck w r).after_same rfl rfl rfl
  have handed := result.trans (handsOver_startCheck hud huc)
  have started := startCheck_of_free hud huc
  rw [hnext] at handed started
  rw [startWrites_congr result.device] at handed
  refine ⟨startCheck u, execCheckDone_of_result hw hr, by simp [Part.same, hu, hidle], fun hp => ?passed,
    fun reason index hp => ⟨?rejected, ?loader⟩, fun b hb => ?next, fun hnone => ?idle, ?link, ?status⟩
  case passed =>
    subst hp
    have hshadow := hown.trans (shadow_applyCheck_passed w)
    simp only [State.bayState, hshadow, and_true]
    rfl
  case rejected =>
    subst hp
    rw [hown]
    exact (shadow_changeBay ..).trans (if_pos rfl)
  case loader =>
    subst hp
    simp [hu, hidle, applyCheck]
  case next =>
    have hoffered : s.bayState b = .offered := by simpa using lowest_some hb
    have hne : b ≠ w.bay := fun e => by simp [← e, hoffered] at hchecking
    have hshadow : u.bays.bays.get b = s.bays.bays.get b := shadow_applyCheck_of_offered r hne hoffered
    rw [hb] at started
    rw [started]
    refine ⟨(bayState_setBayState b .checking u b).trans (if_pos rfl), ?_⟩
    rw [setChecker_checker, hshadow]
    simp [hu, hidle]
  case idle =>
    rw [lowest_eq_none.mpr (by simpa using hnone)] at started
    rw [started, huc]
  case link =>
    rw [handed.link, State.working, hd]
    rfl
  case status =>
    refine handed.status.trans ?_
    cases r <;> rfl

end Sys2Proof.Machine

namespace Sys2Proof.Machine

/-! ## PASSED_EDGE (R91, R92, R110) -/

/-- The lowest index that satisfies `p`, from the indices below it. -/
theorem lowest_of_least {n : Nat} {p : Fin n → Bool} {i : Fin n} (hi : p i = true) (hlow : ∀ j < i, p j = false) :
    lowest n p = some i := by
  cases hf : lowest n p with
  | none => exact absurd hi (Bool.eq_false_iff.mp (lowest_eq_none.mp hf i))
  | some j =>
    rcases lt_trichotomy j i with hlt | rfl | hlt
    · exact absurd (lowest_some hf) (Bool.eq_false_iff.mp (hlow j hlt))
    · rfl
    · exact absurd hi (Bool.eq_false_iff.mp (lowest_least hf hlt))

/-- The edges of the earliest moment come first, in their order (R110). -/
theorem firstMoment_of_split {before after : List PassedEdge} {e : PassedEdge}
    (h : ∀ x ∈ (before ++ [e]).tail, x.together = true) :
    ∃ rest, firstMoment (before ++ e :: after) = before ++ e :: rest := by
  cases before with
  | nil => exact ⟨_, rfl⟩
  | cons first before =>
    have htogether : ∀ x ∈ before ++ [e], x.together = true := h
    have hwhile : (before ++ e :: after).takeWhile PassedEdge.together =
        before ++ e :: after.takeWhile PassedEdge.together := by
      rw [List.append_cons, List.takeWhile_append_of_pos htogether, ← List.append_cons]
    exact ⟨after.takeWhile PassedEdge.together, congrArg (first :: ·) hwhile⟩

/-- The edge of a line at the earliest moment is the one that may be taken (R110). -/
theorem nextEdge_of_split {before after : List PassedEdge} {e : PassedEdge} (hnot : ∀ x ∈ before, x.line ≠ e.line)
    (h : ∀ x ∈ (before ++ [e]).tail, x.together = true) : nextEdge e.line (before ++ e :: after) = some e := by
  obtain ⟨rest, hrest⟩ := firstMoment_of_split (after := after) h
  rw [nextEdge, hrest]
  exact List.find?_eq_some_iff_append.mpr ⟨decide_eq_true rfl, before, rest, rfl, by simpa using hnot⟩

/-- A line without an edge of the earliest moment has none to take (R110). -/
theorem nextEdge_of_none {l : Fin 4} {edges : List PassedEdge} (hfirst : ∀ x ∈ edges.head?, x.line ≠ l)
    (hrest : ∀ x ∈ edges.tail.takeWhile PassedEdge.together, x.line ≠ l) : nextEdge l edges = none := by
  cases edges with
  | nil => rfl
  | cons e rest =>
    refine List.find?_eq_none.mpr fun x hx => ?_
    rcases List.mem_cons.mp hx with rfl | hx
    · simpa using hfirst x rfl
    · simpa using hrest x hx

/-- The edge that is taken leaves the others in their order (R110). -/
theorem erase_of_split {before after : List PassedEdge} {e : PassedEdge} (hnot : ∀ x ∈ before, x.line ≠ e.line) :
    (before ++ e :: after).erase e = before ++ after := by
  have hmem : e ∉ before := fun h => hnot e h rfl
  rw [List.erase_append_right _ hmem, List.erase_cons_head]

/-- PASSED_EDGE takes an edge of the earliest moment (R110, log 44). -/
theorem execPassedEdge_of_cons {s : State} {e : PassedEdge} {rest : List PassedEdge} (hd : s.device.state = .running)
    (h : s.triggers.edges = e :: rest) :
    ∃ x ∈ e :: rest.takeWhile PassedEdge.together,
      execPassedEdge s =
        .next (takeEdge x.line (s.setTriggers { s.triggers with choices := s.triggers.choices + 1 })) := by
  have taken : execPassedEdge s =
      .next (takeEdge (chosenLine s.triggers.choices e (e :: rest))
        (s.setTriggers { s.triggers with choices := s.triggers.choices + 1 })) := by
    rw [execPassedEdge, h]
    exact if_pos hd
  rw [taken, chosenLine]
  split
  · rename_i hsome
    obtain ⟨x, hx⟩ := Option.isSome_iff_exists.mp hsome
    have hline : x.line = Config.freeLine s.triggers.choices := by simpa using List.find?_some hx
    exact ⟨x, List.mem_of_find?_eq_some hx, by rw [hline]⟩
  · exact ⟨e, List.mem_cons_self, rfl⟩

section
variable {s : State} {edge : Fin 4 × Direction} {p : BayState → Bool}

/-- No bound bay satisfies `p` where the selection finds none (R91). -/
theorem boundBay_eq_none :
    boundBay edge p s = none ↔ ∀ b, (s.bays.bays.get b).binding = some edge → p (s.bayState b) = false := by
  rw [boundBay, lowest_eq_none]
  exact forall_congr' fun b => by simp

/-- The lowest-numbered bound bay that satisfies `p` (R91). -/
theorem boundBay_of_least {b : Fin 8} (hb : (s.bays.bays.get b).binding = some edge) (hp : p (s.bayState b) = true)
    (hlow : ∀ a < b, ¬ ((s.bays.bays.get a).binding = some edge ∧ p (s.bayState a) = true)) :
    boundBay edge p s = some b :=
  lowest_of_least (by simp [hb, hp]) fun a ha => by simpa using hlow a ha

/-- LIVE, LOADING and STAGED keep an edge without effect (R91). -/
theorem BayState.isTaken_iff (k : BayState) : k.isTaken = true ↔ k = .live ∨ k = .loading ∨ k = .staged := by
  cases k <;> simp [BayState.isTaken, BayState.isLoad]

/-- In OFFERED and CHECKING a go waits (R91). -/
theorem BayState.isWaiting_iff (k : BayState) : k.isWaiting = true ↔ k = .offered ∨ k = .checking := by
  cases k <;> simp [BayState.isWaiting]

/-- An edge with a bound bay LIVE, LOADING or STAGED has no effect (R91). -/
theorem serveEdge_of_taken (h : ∃ b, (s.bays.bays.get b).binding = some edge ∧ (s.bayState b).isTaken = true) :
    serveEdge edge s = s := by
  rw [serveEdge]
  split
  · rfl
  · rename_i hnone
    obtain ⟨b, hb, hk⟩ := h
    exact absurd hk (Bool.eq_false_iff.mp (boundBay_eq_none.mp hnone b hb))

/-- With no such bay, an edge is a go for the bound READY bay (R91). -/
theorem serveEdge_of_ready {b : Fin 8} (htaken : boundBay edge BayState.isTaken s = none)
    (hready : boundBay edge (fun state => decide (state = .ready)) s = some b) : serveEdge edge s = giveGo b s := by
  simp only [serveEdge, htaken, hready]

/-- With no READY bay either, an edge is a go for the bound bay before or in its check (R91). -/
theorem serveEdge_of_waiting {b : Fin 8} (htaken : boundBay edge BayState.isTaken s = none)
    (hready : boundBay edge (fun state => decide (state = .ready)) s = none)
    (hwaiting : boundBay edge BayState.isWaiting s = some b) : serveEdge edge s = giveGo b s := by
  simp only [serveEdge, htaken, hready, hwaiting]

/-- With none of these, an edge is unserved (R92). -/
theorem serveEdge_of_unserved (htaken : boundBay edge BayState.isTaken s = none)
    (hready : boundBay edge (fun state => decide (state = .ready)) s = none)
    (hwaiting : boundBay edge BayState.isWaiting s = none) : serveEdge edge s = countUnserved s := by
  simp only [serveEdge, htaken, hready, hwaiting]

end

/-- Settles O31: the edge that is taken, then the selection among the bays bound to it. -/
theorem passedEdge : Obligations.PassedEdge := by
  refine ⟨fun s e rest hd h => execPassedEdge_of_cons hd h, fun s l hd => ⟨?takes, fun hfirst hrest => ?none⟩⟩
  case none => rw [takeEdge, nextEdge_of_none hfirst hrest]
  case takes =>
    rintro e before after hedges rfl hnot htogether u bound taken waiting
    have served : takeEdge e.line s = serveEdge (e.line, e.direction) u := by
      rw [takeEdge, hedges, nextEdge_of_split hnot htogether]
      exact (if_pos hd).trans (by rw [erase_of_split hnot])
    have untaken (h : ∀ a, bound a → ¬ taken a) : boundBay (e.line, e.direction) BayState.isTaken u = none :=
      boundBay_eq_none.mpr fun a ha => Bool.eq_false_iff.mpr fun hk => h a ha ((BayState.isTaken_iff _).mp hk)
    have unready (h : ∀ a, bound a → s.bayState a ≠ .ready) :
        boundBay (e.line, e.direction) (fun state => decide (state = .ready)) u = none :=
      boundBay_eq_none.mpr fun a ha => decide_eq_false (h a ha)
    have unwaiting (h : ∀ a, bound a → ¬ waiting a) : boundBay (e.line, e.direction) BayState.isWaiting u = none :=
      boundBay_eq_none.mpr fun a ha => Bool.eq_false_iff.mpr fun hk => h a ha ((BayState.isWaiting_iff _).mp hk)
    refine ⟨fun ⟨b, hb, hk⟩ => ?taken, fun b hnone hb hk hlow => ?ready, fun b hnone hb hk hlow => ?waiting,
      fun hnone => ?unserved⟩ <;> rw [served]
    case taken => exact serveEdge_of_taken ⟨b, hb, (BayState.isTaken_iff _).mpr hk⟩
    case ready =>
      refine serveEdge_of_ready (untaken fun a ha hk => hnone ⟨a, ha, hk⟩) (boundBay_of_least hb (decide_eq_true hk) ?_)
      exact fun a ha h => hlow a ha ⟨h.1, of_decide_eq_true h.2⟩
    case waiting =>
      refine (serveEdge_of_waiting (untaken fun a ha hk => hnone ⟨a, ha, .inl hk⟩)
        (unready fun a ha hk => hnone ⟨a, ha, .inr hk⟩)
        (boundBay_of_least hb ((BayState.isWaiting_iff _).mpr hk) ?_)).trans (giveGo_of_waiting hk)
      exact fun a ha h => hlow a ha ⟨h.1, (BayState.isWaiting_iff _).mp h.2⟩
    case unserved =>
      exact serveEdge_of_unserved (untaken fun a ha hk => hnone ⟨a, ha, .inl hk⟩)
        (unready fun a ha hk => hnone ⟨a, ha, .inr (.inl hk)⟩)
        (unwaiting fun a ha hk => hnone ⟨a, ha, .inr (.inr hk)⟩)

end Sys2Proof.Machine

namespace Sys2Proof.Machine

/-! ## STOP in RUNNING (R95, R112, R181) -/

/-- A notice after changes of bays: BAY where they raise it, and what stood before. -/
theorem State.HandsOver.noticed {s t : State} {requests : List StatusRequest} {raised : Bool}
    (h : s.HandsOver t requests raised) (g : NoticeGroup) :
    t.noticed g = (raised && s.working && decide (g = .bay) || s.noticed g) := by
  rw [noticed_congr h.link, noticed_raiseIf]

/-- The states that entry to STOPPING changes (R95). -/
def BayState.stops : BayState → Bool
  | .checking => true
  | .loading => true
  | .staged => true
  | _ => false

/-- The states that entry to STOPPING changes are those of a check, a load and a staging (R95). -/
theorem BayState.stops_iff (k : BayState) : k.stops = true ↔ k = .checking ∨ k = .loading ∨ k = .staged := by
  cases k <;> simp [BayState.stops]

/-- What entry to STOPPING hands over for one bay (R75, R95). -/
def stopWrites (s : State) (b : Fin 8) : List StatusRequest :=
  match s.bayState b with
  | .checking => s.recordWrites b [(0x00, 1, 1)]
  | .loading => s.recordWrites b [(0x00, 1, 3)]
  | .staged => s.recordWrites b [(0x00, 1, 3)]
  | _ => []

/-- The writes of one bay follow the validated area and the bay's state alone. -/
theorem stopWrites_congr {s t : State} {b : Fin 8} (hd : t.device = s.device) (hb : t.bayState b = s.bayState b) :
    stopWrites t b = stopWrites s b := by
  simp only [stopWrites, hb, State.recordWrites_congr hd]

/-- What entry to STOPPING does to one bay, handed over (R95). -/
theorem handsOver_stopBay (b : Fin 8) (s : State) :
    s.HandsOver (stopBay b s) (stopWrites s b) (s.bayState b).stops := by
  have set (k : BayState) : s.HandsOver (setBayState b k (modifyBay b (fun bay => { bay with goPending := false }) s))
      (s.recordWrites b [(0x00, 1, k.code)]) true :=
    (State.HandsOver.setBayState b k _).after_same rfl rfl rfl
  rw [stopBay, stopWrites]
  cases s.bayState b with
  | checking => exact set .offered
  | loading | staged => exact set .ready
  | _ => exact .of_same rfl rfl rfl

/-- What entry to STOPPING does to one bay leaves the others (R95). -/
theorem bayState_stopBay_ne {a b : Fin 8} (h : a ≠ b) (s : State) : (stopBay b s).bayState a = s.bayState a := by
  have set (k : BayState) :
      (setBayState b k (modifyBay b (fun bay => { bay with goPending := false }) s)).bayState a = s.bayState a :=
    (bayState_setBayState ..).trans ((if_neg h).trans (bayState_clearGo b s a))
  rw [stopBay]
  split
  · exact set .offered
  · exact set .ready
  · exact set .ready
  all_goals exact bayState_clearGo b s a

/-- Entry to STOPPING hands over the bays that change, in their order (R95, log 39). -/
theorem handsOver_stopBays (s : State) :
    s.HandsOver (stopBays s) ((allOf 8).flatMap (stopWrites s)) ((allOf 8).any fun b => (s.bayState b).stops) := by
  refine State.HandsOver.after_same (t := setLoader none (setChecker none s)) ?_ (by simp) (by simp) (by simp)
  refine State.HandsOver.foldl_allOf (fun t b hd hb => ?_) fun t b a h => bayState_stopBay_ne h t
  have stopped := handsOver_stopBay b t
  rw [stopWrites_congr hd hb, hb] at stopped
  exact stopped

/-- With no walk no read is presented (R70). -/
theorem EditionReader.present_of_idle (p : Option Reader) :
    EditionReader.present ⟨none, none, p⟩ = ⟨none, none, none⟩ := by
  cases p with
  | none => rfl
  | some user => cases user <;> rfl

/-- The check and the load in progress are abandoned, and no read waits (R70, R95). -/
theorem reader_stopBays (s : State) : (stopBays s).reader = ⟨none, none, none⟩ :=
  (foldl_keeps (fun t : State => t.reader) _ (fun t b => by simp) _ _).trans (EditionReader.present_of_idle _)

/-- The state that STOP in RUNNING enters, before its snapshot (R181). -/
def stoppingState (s : State) : State :=
  raiseNotice .device (stopTriggers (stopBays (s.setDevice { s.device with state := .stopping, stopCount := 0 })))

/-- What entry to STOPPING leaves as it is. -/
@[simp] theorem stoppingState_frame (s : State) :
    (stoppingState s).pending = s.pending ∧ (stoppingState s).layout = s.layout ∧ (stoppingState s).timing = s.timing ∧
    (stoppingState s).source = s.source ∧ (stoppingState s).capture = s.capture ∧ (stoppingState s).store = s.store ∧
    (stoppingState s).channels = s.channels ∧ (stoppingState s).ports = s.ports ∧
    (stoppingState s).arbiter = s.arbiter ∧ (stoppingState s).memory = s.memory ∧
    (stoppingState s).device = { s.device with state := .stopping, stopCount := 0 } ∧
    (stoppingState s).link.areaBase = s.link.areaBase ∧ (stoppingState s).link.noticeEnable = s.link.noticeEnable ∧
    (stoppingState s).link.queue = s.link.queue ∧ (stoppingState s).link.lastRead = s.link.lastRead ∧
    (stoppingState s).bays.liveBay = s.bays.liveBay ∧ (stoppingState s).bays.liveTag = s.bays.liveTag ∧
    (stoppingState s).bays.unserved = s.bays.unserved ∧ (stoppingState s).triggers.choices = s.triggers.choices := by
  simp [stoppingState, stopTriggers]

/-- STOP in RUNNING enters STOPPING (R181). -/
theorem takeStop_of_running {s : State} (h : s.device.state = .running) : takeStop s = snapshot (stoppingState s) := by
  rw [takeStop, h]
  rfl

/-- Settles O11: the bays by what each hands over and becomes, the lines by their freeze. -/
theorem stopWhileRunning : Obligations.StopWhileRunning := by
  intro s hidle hd changed
  set entered := s.setDevice { s.device with state := .stopping, stopCount := 0 } with hentered
  have handed := handsOver_stopBays entered
  have working : entered.working = true := by simp [State.working, hentered]
  have stopped := (next_deliver_of_idle hidle .stop).trans (congrArg Host.Outcome.next (takeStop_of_running hd))
  refine ⟨stoppingState s, stopped, ?parts, by simp, link_of_notice, fun g => ?noticed, ?reader, by simp, by simp, by simp,
    fun b => ?shadow, rfl, rfl, by simp, fun l => ?line, ?status⟩
  case parts =>
    intro p hp
    cases p <;> simp [Part.same] at hp ⊢
  case noticed =>
    have bays : ((allOf 8).any fun b => (entered.bayState b).stops) = true ↔ ∃ b, changed b := by
      simp only [List.any_eq_true, mem_allOf, true_and, BayState.stops_iff]
      rfl
    have before : (stopTriggers (stopBays entered)).noticed g = (stopBays entered).noticed g :=
      noticed_congr (by simp) g
    have start : entered.noticed g = s.noticed g := noticed_congr rfl g
    rw [stoppingState, noticed_raiseNotice, before, handed.noticed, working, start]
    simp only [Bool.and_true, Bool.or_eq_true, Bool.and_eq_true, decide_eq_true_eq, bays]
    rw [and_comm, ← or_assoc, or_comm]
  case reader => simpa [stoppingState] using reader_stopBays entered
  case shadow =>
    have h : (stoppingState s).bays = (stopBays entered).bays := by simp [stoppingState, hentered]
    rw [h, shadow_stopBays]
    rfl
  case line => simp [stoppingState, stopTriggers, Line.freeze]
  case status =>
    have h : (stoppingState s).status = (stopBays entered).status := by simp [stoppingState, hentered]
    rw [h, handed.status]
    rfl

end Sys2Proof.Machine

namespace Sys2Proof.Machine

/-! ## The judgement of the header (R178) -/

/-- The PROFILE test, spelled out (R178). -/
theorem Header.badProfile_eq_false_iff (h : Header) :
    h.badProfile = false ↔
      640 ≤ h.wc ∧ h.wc ≤ 7680 ∧ 360 ≤ h.hc ∧ h.hc ≤ 2160 ∧ 640 ≤ h.wr ∧ h.wr ≤ 3840 ∧ h.wr % 8 = 0 ∧ 360 ≤ h.hr ∧
        h.hr ≤ 2160 ∧ 225000 ≤ h.period ∧ h.period ≤ 1126126 ∧ h.lockMode ≤ 1 ∧ h.latency ≤ h.period / 2 ∧
        h.holdoverLimit ≤ 1000 ∧ 1 ≤ h.mask ∧ h.mask ≤ 63 ∧ h.slotBase % 4096 = 0 ∧ h.arenaLow % 4096 = 0 ∧
        h.arenaHigh % 4096 = 0 ∧ h.arenaLow < h.arenaHigh ∧ h.exponent ≤ 7 := by
  simp only [Header.badProfile, Bool.or_eq_false_iff, decide_eq_false_iff_not, not_not]
  omega

/-- The PORTMAP test, spelled out (R178). -/
theorem Header.badPortMap_eq_false_iff (h : Header) :
    h.badPortMap = false ↔ ∀ c : Fin 6, h.mask.testBit c.val = true → h.portMap.get c ≤ 5 ∧
      ∀ d : Fin 6, h.mask.testBit d.val = true → h.portMap.get c = h.portMap.get d → c = d := by
  simp only [Header.badPortMap, Header.channelEnabled, List.any_eq_false, mem_allOf, forall_const, Bool.and_eq_true,
    Bool.or_eq_true, decide_eq_true_eq, List.any_eq_true, true_and, not_and, not_or, not_lt, not_exists]
  refine forall_congr' fun c => imp_congr_right fun _ => and_congr_right fun _ => forall_congr' fun d => ?_
  constructor
  · exact fun hd he heq => not_not.mp fun hne => hd ⟨he, Ne.symm hne⟩ heq.symm
  · exact fun hd he heq => he.2 (hd he.1 heq.symm).symm

/-- Two regions that hold bytes overlap where some byte lies in both (R178). -/
theorem overlap_eq_false_iff {a n b m : Nat} (hn : 0 < n) (hm : 0 < m) :
    overlap a n b m = false ↔ ∀ x, ¬ ((a ≤ x ∧ x < a + n) ∧ (b ≤ x ∧ x < b + m)) := by
  rw [overlap, decide_eq_false_iff_not]
  constructor
  · intro h x
    omega
  · intro h ⟨hab, hba⟩
    exact h (max a b) (by omega)

/-- A canvas of one pixel or more has slots of 4096 bytes or more (R117). -/
theorem slotSizeOf_pos {wc hc : Nat} (hw : 0 < wc) (hh : 0 < hc) : 0 < slotSizeOf wc hc := by
  have hpixels : 0 < wc * hc := Nat.mul_pos hw hh
  rw [slotSizeOf]
  omega

/-- The ARENA test, spelled out for a header that passes the PROFILE test (R178). -/
theorem Header.badRegions_eq_false_iff {h : Header} (area : Nat) (hw : 0 < h.wc) (hh : 0 < h.hc)
    (ha : h.arenaLow < h.arenaHigh) :
    h.badRegions area = false ↔
      h.slotBase + 3 * slotSizeOf h.wc h.hc ≤ 2147483648 ∧ h.arenaHigh ≤ 2147483648 ∧
        ∀ x, ¬ ((area ≤ x ∧ x < area + 65536) ∧ (h.slotBase ≤ x ∧ x < h.slotBase + 3 * slotSizeOf h.wc h.hc)) ∧
          ¬ ((area ≤ x ∧ x < area + 65536) ∧ (h.arenaLow ≤ x ∧ x < h.arenaHigh)) ∧
          ¬ ((h.slotBase ≤ x ∧ x < h.slotBase + 3 * slotSizeOf h.wc h.hc) ∧ (h.arenaLow ≤ x ∧ x < h.arenaHigh)) := by
  have hslots : 0 < 3 * slotSizeOf h.wc h.hc := Nat.mul_pos (by decide) (slotSizeOf_pos hw hh)
  have harena : 0 < h.arenaHigh - h.arenaLow := Nat.sub_pos_of_lt ha
  have hend : h.arenaLow + (h.arenaHigh - h.arenaLow) = h.arenaHigh := Nat.add_sub_cancel' ha.le
  have hcontrol : 0 < Config.controlAreaBytes := by decide
  simp only [Header.badRegions, Bool.or_eq_false_iff, decide_eq_false_iff_not, not_lt,
    overlap_eq_false_iff hcontrol hslots, overlap_eq_false_iff hcontrol harena, overlap_eq_false_iff hslots harena, hend,
    and_assoc, forall_and]
  rfl

/-- The first test that fails gives the reason (R178). -/
theorem Header.judge_eq (h : Header) (area : Nat) :
    h.judge area =
      if h.signature ≠ 0x54360001 then .signature
      else if h.badProfile = false then
        if h.badPortMap = false then if h.badRegions area = false then .ok else .arena else .portmap
      else .profile := by
  rw [Header.judge, headerSignature]
  cases h.badProfile <;> cases h.badPortMap <;> cases h.badRegions area <;> rfl

/-! ## The entry to RUNNING (R94, R111, R131, R147, R155, R180) -/

/-- What the normalisation hands over for one bay: RELEASED where the recorded code is none that it keeps, and go_taken
(R94). -/
def normalWrites (s : State) (r : BayRecord) (b : Fin 8) : List StatusRequest :=
  s.recordWrites b ((if r.state ∈ [0, 1, 7, 8] then [] else [(0x00, 1, 8)]) ++ [(0x20, 1, r.goRequest.toNat)])

/-- The state that normalisation gives, by the recorded code (R94). -/
theorem normalState_fst (code : Nat) :
    (normalState code).1 =
      if code = 0 ∨ code = 1 then .empty else if code = 7 then .rejected else .released := by
  simp only [normalState, BayState.code]
  grind

/-- Normalisation rewrites the state where the recorded code is none that it keeps (R94). -/
theorem normalState_snd (code : Nat) : (normalState code).2 = decide (code ∉ [0, 1, 7, 8]) := by
  simp only [normalState, BayState.code, List.mem_cons, List.not_mem_nil, or_false]
  grind

/-- What the normalisation of one bay hands over (R94). -/
theorem handsOver_normaliseBay (b : Fin 8) (r : BayRecord) (s : State) :
    s.HandsOver (normaliseBay b r s) (normalWrites s r b) false := by
  have hfields : (if (normalState r.state).2 then
      [(0x00, 1, (normalState r.state).1.code), (0x20, 1, r.goRequest.toNat)] else [(0x20, 1, r.goRequest.toNat)]) =
      (if r.state ∈ [0, 1, 7, 8] then [] else [(0x00, 1, 8)]) ++ [(0x20, 1, r.goRequest.toNat)] := by
    rw [normalState_snd, normalState_fst]
    by_cases hk : r.state ∈ [0, 1, 7, 8]
    · simp [hk]
    · simp only [List.mem_cons, List.not_mem_nil, or_false, not_or] at hk
      obtain ⟨h0, h1, h7, h8⟩ := hk
      simp [h0, h1, h7, h8, BayState.code]
  simp only [normaliseBay, hfields]
  exact (State.HandsOver.handFields b _ _).after_same rfl rfl rfl

/-- The normalisation of one bay leaves the others (R94). -/
theorem bayState_normaliseBay_ne {a b : Fin 8} (h : a ≠ b) (r : BayRecord) (s : State) :
    (normaliseBay b r s).bayState a = s.bayState a := by
  simp [State.bayState, normaliseBay, Arr.get_modify, h]

/-- The normalisation hands over the bays in their order, and raises no notice (R94). -/
theorem handsOver_normalise (record : Fin 8 → BayRecord) (s : State) :
    s.HandsOver (normalise record s) ((allOf 8).flatMap fun b => normalWrites s (record b) b) false := by
  have handed := State.HandsOver.foldl_allOf (s := s) (f := fun t b => normaliseBay b (record b) t)
    (r := fun b => normalWrites s (record b) b) (c := fun _ => false)
    (fun t b hd _ => by
      have one := handsOver_normaliseBay b (record b) t
      rwa [normalWrites, State.recordWrites_congr hd] at one)
    (fun t b a h => bayState_normaliseBay_ne h (record b) t)
  have silent : ((allOf 8).any fun _ => false) = false := List.any_eq_false.mpr fun _ _ => Bool.false_ne_true
  rw [silent] at handed
  exact handed

/-- The ports after START: every used one enters DOWN (R155). -/
theorem ports_startPorts (s : State) (p : Fin 6) :
    (startPorts s).ports.get p = if s.layout.used p then (s.ports.get p).enterDown else s.ports.get p := by
  simp [startPorts]

section
variable (now : Nat) (pins : BitVec 4) (h : Header) (returned : List (StartBlock × List Byte)) (s : State)

/-- The state of an accepted START with the profile latched and the bays normalised (R94, R180). -/
def normalisedState : State :=
  normalise (fun b => parseBay (readBlock returned (.bay b)))
    (latchProfile h (s.setDevice { s.device with refusal := .ok }))

/-- Then the ports and the Capture Unit have begun (R131, R155). -/
def capturingState : State :=
  let ported := startPorts (normalisedState h returned s)
  ported.setCapture (ported.capture.enable h ported.source.announcement)

/-- Then the lines stand as they begin and the device is RUNNING (R111, R180). -/
def linedState : State :=
  let lined := initialiseLines (fun l => parseSetup (readBlock returned (.setup l))) pins (capturingState h returned s)
  lined.setDevice { lined.device with state := .running, returned := [] }

/-- The state that an accepted START enters, before its snapshot (R180). -/
def runningState : State :=
  raiseNotice .device (setTimingNoticed ((linedState pins h returned s).timing.begin h now) (linedState pins h returned s))

/-- An accepted START ends with a snapshot (R180). -/
theorem enterRunning_eq : enterRunning now pins h returned s = snapshot (runningState now pins h returned s) := rfl

/-- What the parts of a START before the lines leave and set. -/
@[simp] theorem capturingState_frame :
    (capturingState h returned s).pending = s.pending ∧
    (capturingState h returned s).device = { s.device with refusal := .ok } ∧
    (capturingState h returned s).layout = layoutOf h ∧ (capturingState h returned s).link = s.link ∧
    (capturingState h returned s).timing = s.timing ∧ (capturingState h returned s).source = s.source ∧
    (capturingState h returned s).capture = s.capture.enable h s.source.announcement ∧
    (capturingState h returned s).bays = (normalisedState h returned s).bays ∧
    (capturingState h returned s).reader = s.reader ∧ (capturingState h returned s).store = s.store ∧
    (capturingState h returned s).channels = s.channels ∧ (capturingState h returned s).memory = s.memory ∧
    (capturingState h returned s).arbiter = { s.arbiter with exponent := h.exponent, share := 0, pointer := 5 } ∧
    (capturingState h returned s).status = (normalisedState h returned s).status := by
  simp [capturingState, normalisedState, latchProfile]

/-- What an accepted START leaves and sets (R180). -/
@[simp] theorem runningState_frame :
    (runningState now pins h returned s).pending = s.pending ∧
    (runningState now pins h returned s).device = { s.device with state := .running, refusal := .ok, returned := [] } ∧
    (runningState now pins h returned s).layout = layoutOf h ∧
    (runningState now pins h returned s).timing = s.timing.begin h now ∧
    (runningState now pins h returned s).source = s.source ∧
    (runningState now pins h returned s).capture = s.capture.enable h s.source.announcement ∧
    (runningState now pins h returned s).bays = (normalisedState h returned s).bays ∧
    (runningState now pins h returned s).reader = s.reader ∧ (runningState now pins h returned s).store = s.store ∧
    (runningState now pins h returned s).channels = s.channels ∧
    (runningState now pins h returned s).ports = (capturingState h returned s).ports ∧
    (runningState now pins h returned s).memory = s.memory ∧
    (runningState now pins h returned s).arbiter = { s.arbiter with exponent := h.exponent, share := 0, pointer := 5 } ∧
    (runningState now pins h returned s).status = (normalisedState h returned s).status ∧
    (runningState now pins h returned s).link.areaBase = s.link.areaBase ∧
    (runningState now pins h returned s).link.noticeEnable = s.link.noticeEnable ∧
    (runningState now pins h returned s).link.queue = s.link.queue ∧
    (runningState now pins h returned s).link.lastRead = s.link.lastRead := by
  simp [runningState, linedState]

/-- The notices of an accepted START: DEVICE, and TIMING where the generator was not FREE (R146, R180). -/
theorem noticed_runningState (g : NoticeGroup) :
    (runningState now pins h returned s).noticed g =
      (s.noticed g || decide (g = .device) || decide (g = .timing) && decide (s.timing.state ≠ .free)) := by
  have hlink : (linedState pins h returned s).link = s.link := by simp [linedState]
  have htiming : (linedState pins h returned s).timing = s.timing := by simp [linedState]
  have hbegun : (s.timing.begin h now).state = .free := rfl
  rw [runningState, noticed_raiseNotice, noticed_setTimingNoticed, noticed_congr hlink, htiming, hbegun, Bool.or_comm,
    Bool.or_comm _ (s.noticed g), Bool.or_right_comm, Bool.and_comm]
  simp only [ne_comm]

/-- The bays of an accepted START, by the recorded state codes (R94). -/
theorem shadow_normalisedState (b : Fin 8) :
    (normalisedState h returned s).bays.bays.get b =
      { s.bays.bays.get b with
        state := if (parseBay (readBlock returned (.bay b))).state = 0 ∨ (parseBay (readBlock returned (.bay b))).state = 1
          then .empty else if (parseBay (readBlock returned (.bay b))).state = 7 then .rejected else .released
        goTaken := (parseBay (readBlock returned (.bay b))).goRequest
        goPending := false, autoGo := false, binding := none, summary := none } := by
  rw [normalisedState, shadow_normalise, normalShadow, normalState_fst]
  simp

/-- The writes of an accepted START: those of the normalisation (R94). -/
theorem handsOver_normalisedState :
    (s.setDevice { s.device with refusal := .ok }).HandsOver (normalisedState h returned s)
      ((allOf 8).flatMap fun b => normalWrites (s.setDevice { s.device with refusal := .ok })
        (parseBay (readBlock returned (.bay b))) b) false :=
  (handsOver_normalise _ (latchProfile h (s.setDevice { s.device with refusal := .ok }))).after_same rfl rfl rfl

/-- The ports of an accepted START (R155). -/
theorem ports_capturingState (p : Fin 6) :
    (capturingState h returned s).ports.get p =
      if (layoutOf h).used p then (s.ports.get p).enterDown else s.ports.get p := by
  have hl : (normalisedState h returned s).layout = layoutOf h := by simp [normalisedState, latchProfile]
  have hp : (normalisedState h returned s).ports = s.ports := by simp [normalisedState]
  have hports : (capturingState h returned s).ports = (startPorts (normalisedState h returned s)).ports := rfl
  rw [hports, ports_startPorts, hl, hp]

/-- The lines of an accepted START begin where they stand (R111). -/
theorem lines_runningState (l : Fin 4) :
    (runningState now pins h returned s).triggers.lines.get l =
      initialLine (parseSetup (readBlock returned (.setup l))) (pins.getLsbD l.val)
        ((parseSetup (readBlock returned (.setup l))).alt.level (runningState now pins h returned s)) := by
  have level : ∀ a : AltSource,
      a.level (runningState now pins h returned s) = a.level (capturingState h returned s) := fun a =>
    AltSource.level_congr a (by simp) (by simp) (by simp)
  have lines : (runningState now pins h returned s).triggers = (initialiseLines
      (fun l => parseSetup (readBlock returned (.setup l))) pins (capturingState h returned s)).triggers := by
    simp [runningState, linedState]
  rw [level, lines, lines_initialiseLines]

end

/-- VALIDATION_DONE where the header is refused (R179). -/
theorem execValidationDone_of_refused {s : State} (now : Nat) (pins : BitVec 4) (hreads : s.readsReturned = true)
    (hj : (parseHeader (readBlock s.device.returned .header)).judge s.area ≠ .ok) :
    execValidationDone now pins s =
      .next (refuseProfile ((parseHeader (readBlock s.device.returned .header)).judge s.area) s) := by
  rw [execValidationDone, if_pos hreads]
  dsimp only
  split
  · contradiction
  · rfl

/-- VALIDATION_DONE where the header is accepted (R180). -/
theorem execValidationDone_of_accepted {s : State} (now : Nat) (pins : BitVec 4) (hreads : s.readsReturned = true)
    (hj : (parseHeader (readBlock s.device.returned .header)).judge s.area = .ok) :
    execValidationDone now pins s =
      .next (snapshot (runningState now pins (parseHeader (readBlock s.device.returned .header)) s.device.returned s)) := by
  rw [execValidationDone, if_pos hreads]
  dsimp only
  rw [hj, enterRunning_eq]

/-- Settles O12: the judgement test by test, the refusal, and the entry to RUNNING part by part. -/
theorem validationDone : Obligations.ValidationDone := by
  refine ⟨fun h area => ?judge, fun s now pins area hreads harea => ?event⟩
  case judge =>
    intro profile ports slotsEnd inArea inSlots inArena regions
    have hprofile : h.badProfile = false ↔ profile := h.badProfile_eq_false_iff
    have hports : h.badPortMap = false ↔ ports := h.badPortMap_eq_false_iff
    have hregions (hp : profile) : h.badRegions area = false ↔ regions :=
      Header.badRegions_eq_false_iff area (by omega) (by omega) (by omega)
    rw [h.judge_eq]
    refine ⟨fun hs => if_pos hs, fun hs hp => ?_, fun hs hp hq => ?_, fun hs hp hq hr => ?_, fun hs hp hq hr => ?_⟩ <;>
      rw [if_neg (not_not.mpr hs)]
    · exact if_neg (mt hprofile.mp hp)
    · rw [if_pos (hprofile.mpr hp), if_neg (mt hports.mp hq)]
    · rw [if_pos (hprofile.mpr hp), if_pos (hports.mpr hq), if_neg (mt (hregions hp).mp hr)]
    · rw [if_pos (hprofile.mpr hp), if_pos (hports.mpr hq), if_pos ((hregions hp).mpr hr)]
  case event =>
    intro h record known
    have hs : s.area = area := by rw [State.area, harea, Option.getD_some]
    refine ⟨fun hj => ?refused, fun hj => ?accepted⟩
    case refused =>
      rw [← hs] at hj ⊢
      exact execValidationDone_of_refused now pins hreads hj
    case accepted =>
      rw [← hs] at hj
      set u := runningState now pins h s.device.returned s with hu
      have hdevice : u.device = { s.device with state := .running, refusal := .ok, returned := [] } := by simp [hu]
      have hlayout : u.layout = layoutOf h := by simp [hu]
      have htiming : u.timing = s.timing.begin h now := by simp [hu]
      have hcapture : u.capture = s.capture.enable h s.source.announcement := by simp [hu]
      have hbays : u.bays = (normalisedState h s.device.returned s).bays := by simp [hu]
      obtain ⟨hlive, htag, hunserved⟩ : (normalisedState h s.device.returned s).bays.liveBay = s.bays.liveBay ∧
          (normalisedState h s.device.returned s).bays.liveTag = s.bays.liveTag ∧
          (normalisedState h s.device.returned s).bays.unserved = s.bays.unserved := by simp [normalisedState]
      have harbiter : u.arbiter = { s.arbiter with exponent := h.exponent, share := 0, pointer := 5 } := by simp [hu]
      refine ⟨u, execValidationDone_of_accepted now pins hreads hj, ?parts, ?_⟩
      case parts =>
        intro p hp
        cases p <;> simp [Part.same, hu] at hp ⊢
      have hports : u.ports = (capturingState h s.device.returned s).ports := by simp [hu]
      rw [hdevice, hlayout, htiming, hcapture, hbays, hports, harbiter]
      refine ⟨rfl, rfl, rfl, rfl, rfl, rfl, rfl, rfl, shadow_normalisedState h s.device.returned s, hlive, htag,
        hunserved, ?writes, ports_capturingState h s.device.returned s, rfl, rfl, rfl, rfl, rfl, fun n => ?slots, rfl, rfl,
        rfl, rfl, rfl, rfl, rfl, rfl, rfl, rfl, rfl, rfl, rfl, rfl, rfl, ?runMark, fun l => ?line,
        link_of_notice (t := runningState now pins h s.device.returned s),
        noticed_runningState now pins h s.device.returned s⟩
      case writes =>
        have hstatus : u.status = (normalisedState h s.device.returned s).status := by simp [hu]
        rw [hstatus, (handsOver_normalisedState h s.device.returned s).status]
        simp only [normalWrites, State.recordWrites, State.setDevice_device, harea, State.statusWith,
          State.setDevice_status, known, record, decide_eq_true_eq]
      case runMark => simp [hu, runningState, linedState, initialiseLines]
      case slots => simp [Capture.enable, Capture.freeSlots]
      case line =>
        dsimp only
        simp only [combinedNow, hu, lines_runningState]
        exact ⟨rfl, rfl, rfl, rfl, rfl⟩

end Sys2Proof.Machine

namespace Sys2Proof.Machine

/-! ## OUTPUT_FRAME_START in STOPPING (R96, R132, R147, R155, R182) -/

/-! ### The notices that the parts of an output frame start leave -/

section
variable {g : NoticeGroup}

/-- A burst read raises no notice but FAULT (R171, R172). -/
theorem noticed_afterRead (hg : g ≠ .fault) (a n : Nat) (s : State) : (afterRead a n s).noticed g = s.noticed g := by
  rw [afterRead]
  split
  · exact noticed_congr rfl g
  · exact (noticed_takeFault hg ..).trans (noticed_congr rfl g)

/-- The fault acknowledgement raises no notice but FAULT (R192). -/
theorem noticed_acknowledgeIf (hg : g ≠ .fault) (here : Bool) (s : State) :
    (acknowledgeIf here s).noticed g = s.noticed g := by
  rw [acknowledgeIf]
  split
  · exact (noticed_congr rfl g).trans (noticed_afterRead hg _ _ s)
  · rfl

/-- The channels' response raises no notice but CHANNEL and FAULT (R165). -/
theorem noticed_channelsAtFrameStart (hg : g ≠ .fault) (hc : g ≠ .channel) (s : State) :
    (channelsAtFrameStart s).noticed g = s.noticed g := by
  have closed (c : Fin 6) (t : State) : (closeCounts c t).noticed g = t.noticed g := by
    rw [closeCounts, noticed_raiseIf, decide_eq_false hc, Bool.and_false, Bool.false_or]
    exact noticed_congr rfl g
  have latched (c : Fin 6) (t : State) : (latchControls c t).noticed g = t.noticed g := by
    rw [latchControls]
    split
    · exact (noticed_congr rfl g).trans (noticed_afterRead hg _ _ t)
    · rfl
  have response (c : Fin 6) (t : State) : (channelAtFrameStart c t).noticed g = t.noticed g := by
    have renders : (channelAtFrameStart c t).noticed g = (latchControls c (closeCounts c t)).noticed g :=
      noticed_congr (by simp [channelAtFrameStart]) g
    rw [renders, latched, closed]
  have begun : (framesBegun s).noticed g = s.noticed g :=
    foldl_keeps (fun t : State => t.noticed g) _ (fun t c => response c t) _ _
  exact (noticed_congr (by simp [channelsAtFrameStart]) g).trans begun

end

/-- The fault acknowledgement hands nothing over (R192). -/
@[simp] theorem queue_acknowledgeIf (here : Bool) (s : State) :
    (acknowledgeIf here s).status.queue = s.status.queue := by
  rw [acknowledgeIf]
  split <;> simp

/-! ### The end of a STOP -/

/-- READY and LIVE, which the end of a STOP releases (R96). -/
def BayState.ends (k : BayState) : Bool := decide (k = .ready ∨ k = .live)

/-- What the end of a STOP hands over for one bay (R75, R96). -/
def endWrites (s : State) (b : Fin 8) : List StatusRequest :=
  if s.bayState b = .ready ∨ s.bayState b = .live then s.recordWrites b [(0x00, 1, 8)] else []

/-- The end of a STOP for one bay: released in READY and LIVE, left else (R96). -/
theorem endBay_eq (b : Fin 8) (s : State) :
    endBay b s = if s.bayState b = .ready ∨ s.bayState b = .live then releaseBay b s else s := by
  rw [endBay]
  cases s.bayState b <;> rfl

/-- The end of a STOP hands over the bays that it releases, in their order (R96, log 39). -/
theorem handsOver_endBays (s : State) :
    s.HandsOver (endBays s) ((allOf 8).flatMap (endWrites s)) ((allOf 8).any fun b => (s.bayState b).ends) := by
  have released : s.HandsOver ((allOf 8).foldl (fun t b => endBay b t) s) ((allOf 8).flatMap (endWrites s))
      ((allOf 8).any fun b => (s.bayState b).ends) := by
    refine State.HandsOver.foldl_allOf (fun t b hd hb => ?_) (fun t b a hne => ?_)
    · rw [endBay_eq, hb, endWrites, BayState.ends]
      split <;> rename_i h
      · rw [decide_eq_true h, ← State.recordWrites_congr hd]
        exact State.HandsOver.changeBay b _ [] t
      · rw [decide_eq_false h]
        exact .of_same rfl rfl rfl
    · rw [endBay_eq]
      split
      · exact (bayState_releaseBay ..).trans (if_neg hne)
      · rfl
  rw [endBays]
  generalize (allOf 8).foldl (fun t b => endBay b t) s = ended at released
  exact released.before_same rfl rfl rfl

/-- The state in which the end of a STOP releases the bays: the generator and the ports have stopped (R147, R155). -/
def portsEnded (s : State) : State := endPorts (setTimingNoticed s.timing.stop s)

/-- What the stopped generator and ports leave. -/
@[simp] theorem portsEnded_frame (s : State) :
    (portsEnded s).device = s.device ∧ (portsEnded s).bays = s.bays ∧ (portsEnded s).status = s.status := by
  simp [portsEnded]

/-- The registers and the status writer after the end of a STOP are those when the bays have been released, with DEVICE
raised. -/
theorem endStop_handed (s : State) :
    (endStop s).status = (endBays (portsEnded s)).status ∧
      (endStop s).link = (raiseNotice .device (endBays (portsEnded s))).link := by
  simp [endStop, portsEnded, raiseNotice]

/-- The notices of the stopped generator and ports (R146, R165). -/
theorem noticed_portsEnded (s : State) (g : NoticeGroup) :
    (portsEnded s).noticed g =
      (s.ports.toList.any (fun port => decide (port.state ≠ .off)) && decide (g = .channel) ||
        (decide (.stopped ≠ s.timing.state) && decide (g = .timing) || s.noticed g)) := by
  have generator : (setTimingNoticed s.timing.stop s).noticed g =
      (decide (.stopped ≠ s.timing.state) && decide (g = .timing) || s.noticed g) := noticed_setTimingNoticed ..
  have ports : (setTimingNoticed s.timing.stop s).ports = s.ports := by simp
  have raised : (portsEnded s).noticed g =
      (s.ports.toList.any (fun port => decide (port.state ≠ .off)) && decide (g = .channel) ||
        (setTimingNoticed s.timing.stop s).noticed g) := by
    rw [portsEnded, endPorts, noticed_raiseIf, ports]
    exact congrArg _ (noticed_congr rfl g)
  rw [raised, generator]

/-- The notices of the end of a STOP (R75, R146, R165, R182). -/
theorem noticed_endStop {s : State} (hw : s.working = true) (g : NoticeGroup) :
    (endStop s).noticed g = true ↔
      g = .device ∨ (g = .bay ∧ ∃ b, s.bayState b = .ready ∨ s.bayState b = .live) ∨
        (g = .channel ∧ ∃ p, (s.ports.get p).state ≠ .off) ∨ (g = .timing ∧ s.timing.state ≠ .stopped) ∨
        s.noticed g = true := by
  have hworking : (portsEnded s).working = true := (State.working_congr (by simp)).trans hw
  have bays : ((allOf 8).any fun b => ((portsEnded s).bayState b).ends) = true ↔
      ∃ b, s.bayState b = .ready ∨ s.bayState b = .live := by
    simp [BayState.ends, State.bayState]
  have ports : s.ports.toList.any (fun port => decide (port.state ≠ .off)) = true ↔
      ∃ p, (s.ports.get p).state ≠ .off := by
    simp [Arr.mem_toList]
  rw [noticed_congr (endStop_handed s).2, noticed_raiseNotice, (handsOver_endBays (portsEnded s)).noticed, hworking,
    noticed_portsEnded]
  simp only [Bool.or_eq_true, Bool.and_eq_true, decide_eq_true_eq, bays, ports, and_true, ne_comm (a := TimingState.stopped),
    and_comm (b := g = _)]

/-- The requests of the end of a STOP (R96). -/
theorem queue_endStop (s : State) :
    (endStop s).status.queue = s.status.queue ++ (allOf 8).flatMap (endWrites s) := by
  have writes : endWrites (portsEnded s) = endWrites s := by
    funext b
    rw [endWrites, endWrites, bayState_of_bays (s := s) (by simp), State.recordWrites_congr (s := s) (by simp)]
  have bays := (handsOver_endBays (portsEnded s)).status
  rw [(endStop_handed s).1, bays, writes, State.statusWith]
  simp

/-- The device after the end of a STOP (R182). -/
theorem device_endStop (s : State) : (endStop s).device = { s.device with state := .idle, stopCount := 0 } := by
  simp [endStop]

/-- The generator after the end of a STOP (R147). -/
theorem timing_endStop (s : State) : (endStop s).timing = s.timing.stop := by
  simp [endStop]

/-- The live tag after the end of a STOP (R96). -/
theorem liveTag_endStop (s : State) : (endStop s).bays.liveTag = 0 := by
  have cleared : ∀ u : State, (endBays u).bays.liveTag = 0 := fun _ => rfl
  simp [endStop, cleared]

/-! ### The two starts of a STOP -/

/-- The state when the blocks respond to a start in STOPPING: issued, counted, and acknowledged where that comes first (R182,
R192, log 10). -/
def startCounted (now : Nat) (ackFirst : Bool) (s : State) : State :=
  acknowledgeIf ackFirst (countStop (setTimingNoticed (s.timing.startAt now) s))

/-- A start issued and counted raises no notice but TIMING and FAULT (R146). -/
theorem noticed_startCounted {g : NoticeGroup} (hf : g ≠ .fault) (ht : g ≠ .timing) (now : Nat) (ackFirst : Bool)
    (s : State) : (startCounted now ackFirst s).noticed g = s.noticed g := by
  rw [startCounted, noticed_acknowledgeIf hf, noticed_congr (s := setTimingNoticed (s.timing.startAt now) s) (by simp),
    noticed_setTimingNoticed, decide_eq_false ht, Bool.and_false, Bool.false_or]

/-- The blocks' responses to a start in STOPPING: the bays and the lines stand still, and the start that ends the STOP has no
handoff (R132, R182). -/
def respondStopping (ending : Bool) (s : State) : State :=
  if ending then endStop (channelsAtFrameStart s) else channelsAtFrameStart (captureAtFrameStart s)

/-- Outside RUNNING, with the run mark clear, the lines and the bays stand still at an output frame start (R77, R112). -/
theorem baysPart_triggersPart_of_still {s : State} (hd : s.device.state ≠ .running) (hm : s.triggers.runMark = false)
    (early : List (Fin 4)) : baysPart (triggersPart early s) = s := by
  have latched : latchSetups s = s := if_neg (by simp [hm])
  have untaken (l : Fin 4) : takeEdge l s = s := by
    rw [takeEdge]
    split
    · rfl
    · exact if_neg hd
  have still : triggersPart early s = s := by
    rw [triggersPart, latched]
    induction early with
    | nil => rfl
    | cons l early ih => rw [List.foldl_cons, untaken, ih]
  rw [still]
  exact if_neg hd

section
variable {s : State} (hd : s.device.state = .stopping)
include hd

/-- What is issued and counted at a start in STOPPING, and what stays (R135, R182). -/
theorem startCounted_frame (now : Nat) (ackFirst : Bool) :
    (startCounted now ackFirst s).pending = s.pending ∧
    (startCounted now ackFirst s).device = { s.device with stopCount := s.device.stopCount + 1 } ∧
    (startCounted now ackFirst s).layout = s.layout ∧ (startCounted now ackFirst s).timing = s.timing.startAt now ∧
    (startCounted now ackFirst s).source = s.source ∧ (startCounted now ackFirst s).capture = s.capture ∧
    (startCounted now ackFirst s).bays = s.bays ∧ (startCounted now ackFirst s).reader = s.reader ∧
    (startCounted now ackFirst s).store = s.store ∧ (startCounted now ackFirst s).channels = s.channels ∧
    (startCounted now ackFirst s).ports = s.ports ∧ (startCounted now ackFirst s).triggers = s.triggers ∧
    (startCounted now ackFirst s).arbiter = s.arbiter ∧
    (startCounted now ackFirst s).memory.cells = s.memory.cells ∧
    (startCounted now ackFirst s).memory.errors = s.memory.errors ∧
    (startCounted now ackFirst s).status.queue = s.status.queue ∧
    (startCounted now ackFirst s).channelBit = s.channelBit := by
  have counted : (countStop (setTimingNoticed (s.timing.startAt now) s)).device =
      { s.device with stopCount := s.device.stopCount + 1 } := by
    simp [countStop, hd]
  have bit : (countStop (setTimingNoticed (s.timing.startAt now) s)).channelBit = s.channelBit :=
    (channelBit_congr (s := setTimingNoticed (s.timing.startAt now) s)).trans (channelBit_setTimingNoticed _ s)
  simp [startCounted, counted, bit]

/-- An output frame start in STOPPING: the generator, the count, the acknowledgement first or last, the blocks, the
snapshot. -/
theorem issueFrameStart_of_stopping (hm : s.triggers.runMark = false) (now : Nat) (order : StartOrder) :
    issueFrameStart now order s =
      snapshot (acknowledgeIf (!order.ackFirst)
        (respondStopping s.ending (startCounted now order.ackFirst s))) := by
  have blocks : blocksAtFrameStart s.ending order.early (startCounted now order.ackFirst s) =
      respondStopping s.ending (startCounted now order.ackFirst s) := by
    have still := baysPart_triggersPart_of_still (s := startCounted now order.ackFirst s)
      (by simp [startCounted_frame hd, hd]) (by simp [startCounted_frame hd, hm]) order.early
    simp only [blocksAtFrameStart, still, respondStopping]
  rw [← blocks, issueFrameStart, startCounted]
  cases order.ackFirst <;> simp [acknowledgeIf]

/-- OUTPUT_FRAME_START in STOPPING, at the time of the next start. -/
theorem execOutputFrameStart_of_stopping (hm : s.triggers.runMark = false) {now : Nat} (hs : s.timing.state ≠ .stopped)
    (hn : s.timing.nextStart = some now) (order : StartOrder) :
    execOutputFrameStart order s = .next (snapshot (acknowledgeIf (!order.ackFirst)
      (respondStopping s.ending (startCounted now order.ackFirst s)))) := by
  have hissues : s.timing.issues = true := by simp [Timing.issues, hs]
  simp only [execOutputFrameStart, hn, issueIf, hissues, if_true, issueFrameStart_of_stopping hd hm]

end

/-! ### What a start in STOPPING does to the channels (R17, R156, R160) -/

/-- Outside RUNNING no channel requests a row at an output frame start (R156). -/
theorem channels_channelsAtFrameStart_of_dark {s : State} (hd : s.device.state ≠ .running) (c : Fin 6) :
    (channelsAtFrameStart s).channels.get c = channelAfter s c (s.channels.get c) := by
  have dark : ((channelsAtFrameStart s).channels.get c).rendering ≠ true := by
    rw [rendering_channelsAtFrameStart, ne_eq, rendersNow_iff]
    exact fun h => hd h.1
  have window : request (channelsAtFrameStart s) c [] = [] := if_neg fun h => dark h.1
  rw [channels_channelsAtFrameStart, window]
  rfl

/-- The channels after their response outside RUNNING, from a state with the same channels, layout and memory. -/
theorem channels_response_of_dark {s v : State} (hs : s.device.state ≠ .running) (hv : v.device.state ≠ .running)
    (hl : v.layout = s.layout) (ha : v.device.validatedArea = s.device.validatedArea)
    (hc : v.memory.cells = s.memory.cells) (he : v.memory.errors = s.memory.errors) (hch : v.channels = s.channels)
    (c : Fin 6) : (channelsAtFrameStart v).channels.get c = channelAfter s c (s.channels.get c) := by
  rw [channels_channelsAtFrameStart_of_dark hv, hch]
  simp only [channelAfter, hl, State.controlBytes_congr hc he ha, rendersNow, decide_eq_false hs, decide_eq_false hv,
    Bool.false_and]

/-- What both starts of a STOP do: the blocks but the ends of a STOP stay, and each channel closes its counts, latches its
controls where it is enabled, and does not render (R17, R156, R159, R160, R182). -/
def StopStart (s u : State) : Prop :=
  (∀ p ∈ [Part.pending, .layout, .source, .arbiter, .reader, .triggers], p.same s u) ∧
  (∀ a, u.memory.read a = s.memory.read a) ∧
  (∀ c, let old := s.channels.get c
    let ch := u.channels.get c
    ch.clipLast = old.clipRunning - old.ready.countP ReadyPixel.clipped ∧ ch.clipRunning = 0 ∧
    ch.lateLast = old.lateRunning ∧ ch.lateRunning = 0 ∧ ch.nextPixel = 0 ∧ ch.window = []) ∧
  ∀ c, (u.channels.get c).rendering = false ∧ (u.channels.get c).ready = [] ∧
    (s.layout.isEnabled c = true →
      (u.channels.get c).mode = modeOf (field (s.controlBytes (controlOffset c) 8) 0 1) ∧
      (u.channels.get c).flat = flatOf (s.controlBytes (controlOffset c) 8))

/-- The common part of both starts, from the channels after their response and what stays. -/
theorem stopStart_of_channels {s u : State} (hd : s.device.state ≠ .running)
    (hparts : ∀ p ∈ [Part.pending, .layout, .source, .arbiter, .reader, .triggers], p.same s u)
    (hcells : u.memory.cells = s.memory.cells) {mark : Fin 6 → Bool}
    (hch : ∀ c, u.channels.get c = { channelAfter s c (s.channels.get c) with quarantined := mark c }) :
    StopStart s u := by
  have dark (c : Fin 6) : rendersNow s c = false := by simp [rendersNow, hd]
  refine ⟨hparts, fun a => by rw [Memory.read, Memory.read, hcells], fun c => ?_, fun c => ?_⟩
  · rw [hch]
    dsimp only [channelAfter]
    split <;> exact ⟨rfl, rfl, rfl, rfl, rfl, rfl⟩
  · rw [hch]
    refine ⟨dark c, rfl, fun he => ?_⟩
    simp only [channelAfter, he, if_true]
    exact ⟨rfl, rfl⟩

section
variable {s : State} (hd : s.device.state = .stopping) (now : Nat) (ackFirst : Bool)
include hd

/-- The first start of a STOP, the stop frame, before its snapshot (R182). -/
theorem stopStart_first :
    StopStart s (acknowledgeIf (!ackFirst) (respondStopping false (startCounted now ackFirst s))) := by
  have frame := startCounted_frame hd now ackFirst
  refine stopStart_of_channels (mark := fun c => (channelAfter s c (s.channels.get c)).quarantined) (by simp [hd])
    (by simp [Part.same, respondStopping, frame]) (by simp [respondStopping, frame]) fun c => ?_
  have channels := channels_response_of_dark (s := s) (v := captureAtFrameStart (startCounted now ackFirst s))
    (by simp [hd]) (by simp [frame, hd]) (by simp [frame]) (by simp [frame]) (by simp [frame]) (by simp [frame])
    (by simp [frame]) c
  simp [respondStopping, channels]

/-- The second start of a STOP, before its snapshot (R182). -/
theorem stopStart_second :
    StopStart s (acknowledgeIf (!ackFirst) (respondStopping true (startCounted now ackFirst s))) := by
  have frame := startCounted_frame hd now ackFirst
  refine stopStart_of_channels (mark := fun _ => false) (by simp [hd]) (by simp [Part.same, respondStopping, frame])
    (by simp [respondStopping, frame]) fun c => ?_
  have channels := channels_response_of_dark (s := s) (v := startCounted now ackFirst s) (by simp [hd])
    (by simp [frame, hd]) (by simp [frame]) (by simp [frame]) (by simp [frame]) (by simp [frame]) (by simp [frame]) c
  simp [respondStopping, endStop_channels, channels]

end

/-- Settles O19: what both starts do to the channels, then the handoff of the first and the end of the STOP at the second. -/
theorem outputFrameStartStopping : Obligations.OutputFrameStartStopping := by
  intro s now order hd hm hs hn common
  have frame := startCounted_frame hd now order.ackFirst
  set first := startCounted now order.ackFirst s with hfirst
  have exec_eq : exec (.outputFrameStart order) s =
      .next (snapshot (acknowledgeIf (!order.ackFirst) (respondStopping s.ending first))) :=
    execOutputFrameStart_of_stopping hd hm hs hn order
  have channel : (channelsAtFrameStart first).channelBit = true ↔
      s.channelBit = true ∨ ∃ c, 0 < (s.channels.get c).lateRunning := by
    rw [channelBit_channelsAtFrameStart]
    simp [frame]
  refine ⟨fun hcount => ?first, fun hcount => ?second⟩
  case first =>
    have ending : s.ending = false := by simp [State.ending, hcount]
    have hfreeze : first.freeze = s.freeze := State.freeze_congr (by simp [frame]) (by simp [frame]) (by simp [frame])
    rw [ending] at exec_eq
    refine ⟨_, exec_eq, stopStart_first hd now order.ackFirst, ?_⟩
    simp only [respondStopping, Bool.false_eq_true, if_false, acknowledgeIf_frame, queue_acknowledgeIf, noticed_channel]
    refine ⟨by simp [frame], by simp [frame], by simp [frame, hcount], by simp [frame], ?capture, fun p => ?port,
      by simp [frame], ?notice⟩
    case capture => simp [capture_captureAtFrameStart, hfreeze, frame]
    case port => simp [ports_channelsAtFrameStart, frame]
    case notice =>
      rw [channelBit_channelsAtFrameStart]
      simp [frame]
  case second =>
    have ending : s.ending = true := by simp [State.ending, hd, hcount]
    set v := channelsAtFrameStart first with hv
    have responded : respondStopping true first = endStop v := if_pos rfl
    have both : StopStart s (acknowledgeIf (!order.ackFirst) (respondStopping true first)) :=
      stopStart_second hd now order.ackFirst
    have device : v.device = { s.device with stopCount := 2 } := by simp [hv, frame, hcount]
    have timing : v.timing = s.timing.startAt now := by simp [hv, frame]
    have capture : v.capture = s.capture := by simp [hv, frame]
    have store : v.store = s.store := by simp [hv, frame]
    have queue : v.status.queue = s.status.queue := by simp [hv, frame]
    have port (p : Fin 6) : (v.ports.get p).state = (s.ports.get p).state := by
      simp [hv, ports_channelsAtFrameStart, frame]
    have bayState (b : Fin 8) : v.bayState b = s.bayState b := bayState_of_bays (by simp [hv, frame]) b
    have writes : endWrites v = endWrites s := by
      funext b
      rw [endWrites, endWrites, bayState, State.recordWrites_of_area (s := s) (by simp [device])]
    have bay : v.noticed .bay = s.noticed .bay :=
      (noticed_channelsAtFrameStart (by decide) (by decide) first).trans
        (noticed_startCounted (by decide) (by decide) now order.ackFirst s)
    have notices := noticed_endStop (s := v) (by simp [State.working, device, hd])
    obtain ⟨hframe, -, -, hmeasured, -⟩ := s.timing.startAt_frame now
    rw [ending, responded] at exec_eq
    rw [responded] at both
    refine ⟨_, exec_eq, both, ?_⟩
    simp only [acknowledgeIf_frame, queue_acknowledgeIf, noticed_acknowledgeIf, ne_eq, reduceCtorEq, not_false_eq_true]
    rw [device_endStop, timing_endStop, endStop_ports, endStop_store, endStop_capture, queue_endStop, device, timing, capture,
      store, queue, writes]
    refine ⟨rfl, rfl, hframe, rfl, rfl, rfl, rfl, hmeasured, fun p => ?off, fun b => ?released, liveBay_endStop v,
      liveTag_endStop v, rfl, rfl, rfl, rfl, rfl, rfl, rfl, rfl, rfl, rfl, rfl, rfl, rfl, fun n => ?slots, fun c => ?marks,
      (notices .device).mpr (.inl rfl), rfl, ?bays, ?channels⟩
    case off => simp [Port.turnOff]
    case released =>
      have ended : (acknowledgeIf (!order.ackFirst) (endStop v)).bayState b = (endStop v).bayState b :=
        bayState_of_bays (by simp) b
      have shadow : v.bays = s.bays := by simp [hv, frame]
      rw [ended, bayState_endStop, shadow, endedShadow]
      exact apply_ite Bay.state _ _ _
    case slots => simp [Capture.disable, Capture.freeSlots]
    case marks => rw [endStop_channels]
    case bays =>
      rw [notices]
      simp only [bayState, bay, reduceCtorEq, false_and, true_and, false_or, or_comm]
    case channels =>
      rw [notices, noticed_channel, noticed_channel, channel]
      simp only [port, reduceCtorEq, false_and, true_and, false_or, ne_eq]
      exact or_comm.trans or_assoc

end Sys2Proof.Machine
